-- ==== Sys2Proof/Word.lean ====
section
/-! DEFINITION. The word types of SPRDEC: bytes of AMEM, 16-bit counts, 32-bit registers and pixel words (00_scope.md R8). -/

namespace Sys2Proof

/-- One byte of AMEM or of a token (R8: 8 bits unsigned). -/
abbrev Byte := BitVec 8

/-- A run length or a sprite count (R8: 16-bit unsigned). -/
abbrev Half := BitVec 16

/-- A register of the window, an offset, or a GRID pixel word (R8: 32 bits). -/
abbrev Word := BitVec 32

end Sys2Proof
end

