-- ==== Sys2Proof/Config.lean ====
section
/-! DEFINITION. What is fixed for one SPRDEC: the parameters of 00_scope.md R8, and the two values the spec leaves OPEN. -/

namespace Sys2Proof

/-- GRID_PIXELS, the budget: 1024 = 32 × 32 (R8). -/
def Config.gridPixels : Nat := 1024

/-- The length of the archive header in bytes: a 4-byte signature and a 2-byte count (R8). -/
def Config.headerLen : Nat := 6

/-- AMEM_SIZE of the machine that `State.reset` describes: OPEN, any value from 0 to 2^32 − 1 (R8, D5).
It has no body, so no proof can lean on a value of it.
DESIGN CHOICE (log 2): a step reads the State field that starts at this value. -/
opaque Config.amemSize : Word

/-- What an AMEM byte that the host never wrote holds: any value of 8 bits (93_implementation_defined.md I13).
A free value: it has no body. DESIGN CHOICE (log 3): it is a function of the address alone. -/
opaque Config.unwrittenByte : Nat → Byte

/-- WINDOW_BASE, the address of the register window on the host bus: OPEN, any address (D36, I11).
No rule depends on it (log 13). -/
opaque Config.windowBase : Nat

end Sys2Proof
end

