-- ==== Sys2Proof/Syntax.lean ====
section
/-! DEFINITION. The sixteen rows of spec/opcode_table.json as one inductive: eight command words (30_encoding.md R64, R65)
and eight byte-stream tokens (R56, R58, R59). -/

namespace Sys2Proof

/-- The two ways an offset-table entry is read (R57, R90): as the start of its own sprite, or as the end of the sprite before it. -/
inductive EntryRole where
  | start
  | stop
deriving DecidableEq, Repr

/-- One constructor per row of the opcode table.
A command's ignored bits [31:4] are no operand: they have no effect (R64, R66).
A reserved command keeps its opcode, because FSM.OP holds it (R80). -/
inductive Instr where
  /-- NOP, OP = 0x0 (R78). -/
  | nop
  /-- LOAD, OP = 0x1 (R81). -/
  | load
  /-- UNLOAD, OP = 0x2 (R79). -/
  | unload
  /-- EXTRACT, OP = 0x3 (R88). -/
  | extract
  /-- DECODE, OP = 0x4 (R96). -/
  | decode
  /-- EXTRACT_DECODE, OP = 0x5 (R97). -/
  | extractDecode
  /-- RESERVED_6_7, OP = 0x6 or 0x7 (R80). -/
  | reserved67 (op : BitVec 4)
  /-- RESERVED_8_F, OP = 0x8 to 0xF (R80). -/
  | reserved8F (op : BitVec 4)
  /-- HDR_SIG: archive bytes 0..3, the signature (R56, R81). -/
  | hdrSig (sig : Word)
  /-- HDR_COUNT: archive bytes 4..5, the sprite count N (R56, R81). -/
  | hdrCount (n : Half)
  /-- OFFSET_ENTRY: one entry of the offset table (R56, R57, R87). -/
  | offsetEntry (role : EntryRole) (off : Word)
  /-- KEY: block bytes 0..2, skipped (R58, R98). -/
  | key (k0 k1 k2 : Byte)
  /-- DSIZE: block bytes 3..4 when BLK_LEN > 5, skipped (R58, R98). -/
  | dsize (d : Half)
  /-- TRUN: a transparent-run length T (R59, R99). -/
  | trun (t : Half)
  /-- CRUN: a colored-run length C (R59, R101). -/
  | crun (c : Half)
  /-- RGB: one colored pixel (R59, R102). -/
  | rgb (r g b : Byte)
deriving DecidableEq, Repr

/-- The place where bytes stand, which is what tells one token kind from another (R60, R62: no token carries an opcode field). -/
inductive Slot where
  | command
  | hdrSig
  | hdrCount
  | offsetEntry (role : EntryRole)
  | key
  | dsize
  | trun
  | crun
  | rgb
deriving DecidableEq, Repr

/-- How many bytes stand in a slot (R56, R58, R59, R64). -/
def Slot.length : Slot → Nat
  | .command => 4
  | .hdrSig => 4
  | .hdrCount => 2
  | .offsetEntry _ => 4
  | .key => 3
  | .dsize => 2
  | .trun => 2
  | .crun => 2
  | .rgb => 3

/-- The slot an instruction stands in. -/
def Instr.slot : Instr → Slot
  | .nop => .command
  | .load => .command
  | .unload => .command
  | .extract => .command
  | .decode => .command
  | .extractDecode => .command
  | .reserved67 _ => .command
  | .reserved8F _ => .command
  | .hdrSig _ => .hdrSig
  | .hdrCount _ => .hdrCount
  | .offsetEntry role _ => .offsetEntry role
  | .key _ _ _ => .key
  | .dsize _ => .dsize
  | .trun _ => .trun
  | .crun _ => .crun
  | .rgb _ _ _ => .rgb

end Sys2Proof
end

