-- ==== Sys2Proof/WellFormed.lean ====
section
/-! DEFINITION. Which terms of Instr stand for an encoding. The operand widths are in the types; what is left to check
is that a reserved command carries an opcode of its own row (30_encoding.md R65, R66). -/

namespace Sys2Proof

/-- The checks on an instruction's operands, as a Bool. -/
def Instr.wellFormed : Instr → Bool
  | .nop => true
  | .load => true
  | .unload => true
  | .extract => true
  | .decode => true
  | .extractDecode => true
  | .reserved67 op => op.toNat == 6 || op.toNat == 7
  | .reserved8F op => decide (8 ≤ op.toNat)
  | .hdrSig _ => true
  | .hdrCount _ => true
  | .offsetEntry _ _ => true
  | .key _ _ _ => true
  | .dsize _ => true
  | .trun _ => true
  | .crun _ => true
  | .rgb _ _ _ => true

/-- An instruction that some encoding stands for. -/
abbrev WellFormed (i : Instr) : Prop := i.wellFormed = true

end Sys2Proof
end

