-- ==== Sys2Proof/Decode.lean ====
section
/-! DEFINITION. Byte order, the decoder (bytes in a slot to an instruction) and after it the encoder (30_encoding.md). -/

namespace Sys2Proof

/-- The little-endian value of a byte sequence: the byte at the lowest address is the least significant (20_memory.md R42). -/
def leNat : List Byte → Nat
  | [] => 0
  | b :: bs => b.toNat + 256 * leNat bs

/-- The `n` little-endian bytes of a number, lowest address first. -/
def leBytes : Nat → Nat → List Byte
  | 0, _ => []
  | n + 1, v => BitVec.ofNat 8 v :: leBytes n (v / 256)

/-- Why bytes are no instruction. Every byte value is legal in every position (R66), so too few bytes is the only reason. -/
inductive DecodeError where
  /-- Fewer bytes than the slot's token has. -/
  | truncated (slot : Slot)
deriving DecidableEq, Repr

/-- Bits [3:0] of a command word (R64). -/
def opField (w : Word) : BitVec 4 := w.extractLsb' 0 4

/-- The opcode map of R65. -/
def decodeOp (op : BitVec 4) : Instr :=
  match op.toNat with
  | 0 => .nop
  | 1 => .load
  | 2 => .unload
  | 3 => .extract
  | 4 => .decode
  | 5 => .extractDecode
  | 6 => .reserved67 op
  | 7 => .reserved67 op
  | _ => .reserved8F op

/-- The decoder: the instruction that the first bytes of a slot hold, and the bytes after it.
Token layouts are those of R56, R58 and R59; every operand is little-endian and zero-extended (R63).
DEDUCED (log 10): a command word stands as its four little-endian bytes. -/
def decode : Slot → List Byte → Except DecodeError (Instr × List Byte)
  | .command, b0 :: b1 :: b2 :: b3 :: rest => .ok (decodeOp (opField (BitVec.ofNat 32 (leNat [b0, b1, b2, b3]))), rest)
  | .hdrSig, b0 :: b1 :: b2 :: b3 :: rest => .ok (.hdrSig (BitVec.ofNat 32 (leNat [b0, b1, b2, b3])), rest)
  | .hdrCount, b0 :: b1 :: rest => .ok (.hdrCount (BitVec.ofNat 16 (leNat [b0, b1])), rest)
  | .offsetEntry role, b0 :: b1 :: b2 :: b3 :: rest =>
      .ok (.offsetEntry role (BitVec.ofNat 32 (leNat [b0, b1, b2, b3])), rest)
  | .key, k0 :: k1 :: k2 :: rest => .ok (.key k0 k1 k2, rest)
  | .dsize, b0 :: b1 :: rest => .ok (.dsize (BitVec.ofNat 16 (leNat [b0, b1])), rest)
  | .trun, b0 :: b1 :: rest => .ok (.trun (BitVec.ofNat 16 (leNat [b0, b1])), rest)
  | .crun, b0 :: b1 :: rest => .ok (.crun (BitVec.ofNat 16 (leNat [b0, b1])), rest)
  | .rgb, r :: g :: b :: rest => .ok (.rgb r g b, rest)
  | slot, _ => .error (.truncated slot)

/-- The encoder: the bytes of an instruction, lowest address first (R56, R58, R59, R64, R65).
A command's ignored bits are encoded as 0. -/
def encode : Instr → List Byte
  | .nop => leBytes 4 0
  | .load => leBytes 4 1
  | .unload => leBytes 4 2
  | .extract => leBytes 4 3
  | .decode => leBytes 4 4
  | .extractDecode => leBytes 4 5
  | .reserved67 op => leBytes 4 op.toNat
  | .reserved8F op => leBytes 4 op.toNat
  | .hdrSig sig => leBytes 4 sig.toNat
  | .hdrCount n => leBytes 2 n.toNat
  | .offsetEntry _ off => leBytes 4 off.toNat
  | .key k0 k1 k2 => [k0, k1, k2]
  | .dsize d => leBytes 2 d.toNat
  | .trun t => leBytes 2 t.toNat
  | .crun c => leBytes 2 c.toNat
  | .rgb r g b => [r, g, b]

/-- The instruction the decoder reads from the `nbits` bits `w` of a table row.
DEDUCED (log 10): bits with no place are a command word, the one kind the table can name by its bits;
a stream token has no opcode field, and `decode` reads it in the slot that the engine's state selects (R60). -/
def decodeTableWord (nbits w : Nat) : Option Instr :=
  if nbits ≤ 32 then
    match decode .command (leBytes 4 (w % 2 ^ nbits)) with
    | .ok (i, _) => some i
    | .error _ => none
  else none

end Sys2Proof
end

