-- ==== Sys2Proof/Machine/State.lean ====
section
/-! DEFINITION. The state of SPRDEC as plain data: every register of 10_state.md R17, AMEM, GRID, the parameter AMEM_SIZE,
and the model's own schedule of events; the reasons a step can stop; and the state after reset (70_reset_and_hazards.md R131). -/

namespace Sys2Proof.Machine

/-- STATUS.ERR, the result code of the last finished command (R21). Codes 7 to 15 are never written and not represented (I19, log 14). -/
inductive Err where
  | ok
  | format
  | notFound
  | notLoaded
  | badRange
  | badLen
  | badCmd
deriving DecidableEq, Repr

/-- STATUS.NF_REASON, why the last extraction gave NotFound (R22). Codes 5 to 15 are never written (I19, log 14). -/
inductive NfReason where
  | none
  | idRange
  | zeroOffset
  | emptyRange
  | pastEnd
deriving DecidableEq, Repr

/-- FSM.STATE, the engine's control state (R33). Code 7 is never entered (I19, log 14). -/
inductive FsmState where
  | idle
  | exec
  | fetchT
  | emitT
  | fetchC
  | emitC
  | pad
deriving DecidableEq, Repr

/-- The size of a host access to the register window. Only aligned words have a meaning (R70). -/
inductive AccessSize where
  | byte
  | half
  | word
deriving DecidableEq, Repr

/-- One event of the total order of 20_memory.md R51 (log 1). -/
inductive Event where
  /-- The engine takes its turn. -/
  | engine
  /-- The host reads the register window at an offset (R70). -/
  | read (offset : BitVec 13) (size : AccessSize)
  /-- The host writes the register window at an offset (R70 to R74). -/
  | write (offset : BitVec 13) (size : AccessSize) (value : Word)
  /-- The host reads an AMEM byte by its own path (R40). -/
  | amemRead (addr : Word)
  /-- The host writes an AMEM byte by its own path (R34, R53). -/
  | amemWrite (addr : Word) (value : Byte)
  /-- The host polls STATUS until BUSY = 0 (R69, log 6). -/
  | wait
  /-- The reset input (R131). -/
  | reset
deriving DecidableEq, Repr

/-- What a host read returned (log 4). -/
inductive Response where
  | word (w : Word)
  | byte (b : Byte)
deriving DecidableEq, Repr

/-- AMEM as address and byte pairs, addresses strictly rising; an unlisted address is one the host never wrote (R34, I13). -/
abbrev Memory := List Host.Cell

/-- GRID as word index and pixel word pairs, indices strictly rising; an unlisted word has no value (R36, R132). -/
abbrev Grid := List (Nat × Word)

/-- The state of SPRDEC. -/
structure State where
  /-- CTRL.IRQ_EN (R19). -/
  irqEn : Bool
  /-- STATUS.BUSY (R20). -/
  busy : Bool
  /-- STATUS.DONE (R20). -/
  done : Bool
  /-- STATUS.LOADED (R20). -/
  loaded : Bool
  /-- STATUS.HOST_VIOL (R20). -/
  hostViol : Bool
  /-- STATUS.ERR (R20, R21). -/
  err : Err
  /-- STATUS.NF_REASON (R20, R22). -/
  nfReason : NfReason
  /-- STATUS.SHORT_TAIL (R20). -/
  shortTail : Bool
  /-- STATUS.RUN_CLIPPED (R20). -/
  runClipped : Bool
  /-- ARCHIVE_LEN (R23). -/
  archiveLen : Word
  /-- SIGNATURE (R24). -/
  signature : Word
  /-- SPRITE_COUNT (R25). -/
  spriteCount : Half
  /-- SPRITE_ID (R26). -/
  spriteId : Word
  /-- BLK_START (R27). -/
  blkStart : Word
  /-- BLK_LEN (R27). -/
  blkLen : Word
  /-- CURSOR (R28). -/
  cursor : Word
  /-- RUN (R29). -/
  run : Half
  /-- PIXCOUNT (R30). -/
  pixcount : BitVec 11
  /-- ROWCOL.COL (R31). -/
  col : BitVec 5
  /-- ROWCOL.ROW (R31). -/
  row : BitVec 5
  /-- ROWCOL.FULL (R31). -/
  full : Bool
  /-- FSM.STATE (R32, R33). -/
  fsm : FsmState
  /-- FSM.OP (R32). -/
  op : BitVec 4
  /-- The parameter AMEM_SIZE (R8): no event changes it (log 2). -/
  amemSize : Word
  /-- AMEM (R34). -/
  amem : Memory
  /-- GRID (R36). -/
  grid : Grid
  /-- The model's own: the events still to come, in order (R51, log 1). -/
  events : List Event
  /-- The model's own: what the last host read returned (log 4). -/
  response : Option Response
deriving DecidableEq, Repr

/-- Why the machine has no next state. -/
inductive Fault where
  /-- An engine read of AMEM at an address ≥ AMEM_SIZE (R41, I21). Raised by the meanings and engine steps that read AMEM. Safe: no run reaches it. -/
  | amemRange
  /-- A host read of a GRID word that no decode has written since reset (R132, I12). Raised by a host read. Safe. -/
  | gridUnwritten
  /-- A host access to an AMEM address that does not exist (R34, log 5). Raised by a host AMEM access. Safe. -/
  | hostAmemRange
  /-- EXEC with FSM.OP = 0, which R75 says can never be (log 8). Raised by the engine's EXEC step. Safe. -/
  | execNop
deriving DecidableEq, Repr

/-- Why the model has no move for an action. -/
inductive Refusal where
  /-- An instruction of the table that has no meaning yet. No arm raises it. Safe. -/
  | notModelled (mnemonic : String)
  /-- A sub-word or misaligned access to the register window (R70, I18). Raised by a host access. Safe. -/
  | busAccess
  /-- A host AMEM write in breach of H-1 or H-2 (R53, R135, I20). Raised by a host AMEM write.
  UNSAFE for a platform whose host breaks the duty: a claim about it is unsaid (R135). -/
  | amemDuty
deriving DecidableEq, Repr

/-- The state after reset of a SPRDEC with the given AMEM_SIZE: every register 0, IDLE, no GRID word with a value (R131, R132).
DESIGN CHOICE (log 1, log 4): nothing is scheduled and no response is held. -/
def State.resetWith (amemSize : Word) : State where
  irqEn := false
  busy := false
  done := false
  loaded := false
  hostViol := false
  err := .ok
  nfReason := .none
  shortTail := false
  runClipped := false
  archiveLen := 0
  signature := 0
  spriteCount := 0
  spriteId := 0
  blkStart := 0
  blkLen := 0
  cursor := 0
  run := 0
  pixcount := 0
  col := 0
  row := 0
  full := false
  fsm := .idle
  op := 0
  amemSize := amemSize
  amem := []
  grid := []
  events := []
  response := none

/-- The machine right after reset (R131), with the OPEN AMEM_SIZE of Config (log 2) and an AMEM the host has not written (log 3). -/
def State.reset : State := State.resetWith Config.amemSize

end Sys2Proof.Machine
end

