-- ==== Sys2Proof/Machine/Ops.lean ====
section
/-! DEFINITION. The shared operations over memory and registers: AMEM and GRID, taking an error (`finish`), ending one
(`accept`), starting a decode, and writing a pixel (20_memory.md, 40_host_interface.md R74 and R76, 43 R98, 44 R107 to R111). -/

namespace Sys2Proof.Machine

/-! ### Sparse memories -/

/-- The entry a sparse memory lists at a key. -/
def sparseGet {β : Type} : List (Nat × β) → Nat → Option β
  | [], _ => none
  | (k, v) :: rest, a => if k = a then some v else sparseGet rest a

/-- Store an entry, in the place that keeps the keys rising, over any entry the key had. -/
def sparseSet {β : Type} : List (Nat × β) → Nat → β → List (Nat × β)
  | [], a, v => [(a, v)]
  | (k, w) :: rest, a, v =>
      if a < k then (a, v) :: (k, w) :: rest
      else if a = k then (a, v) :: rest
      else (k, w) :: sparseSet rest a v

/-- The canonical form of AMEM: addresses strictly rising. An unlisted address has no value of its own, so no entry can equal it. -/
abbrev Memory.wf (m : Memory) : Prop := (m.map Prod.fst).Pairwise (· < ·)

/-- The canonical form of GRID: indices strictly rising. -/
abbrev Grid.wf (g : Grid) : Prop := (g.map Prod.fst).Pairwise (· < ·)

/-! ### AMEM -/

/-- The byte AMEM holds at an address: what the host wrote there last, or a free value (I13, log 3). -/
def amemValue (s : State) (a : Nat) : Byte := (sparseGet s.amem a).getD (Config.unwrittenByte a)

/-- `AB(a)`: one byte through the engine's read port, defined only for `a < AMEM_SIZE` (R11, R41). -/
def amemByte (s : State) (a : Nat) : Option Byte := if a < s.amemSize.toNat then some (amemValue s a) else none

/-- `n` bytes in a row, one read each (R46). -/
def amemBytes (s : State) (a : Nat) : Nat → Option (List Byte)
  | 0 => some []
  | n + 1 => (amemByte s a).bind fun b => (amemBytes s (a + 1) n).map fun bs => b :: bs

/-- `MemRead(a, n)`: the little-endian value of `n` bytes (R11, R42). -/
def memRead (s : State) (a n : Nat) : Option Nat := (amemBytes s a n).map leNat

/-- `LE16(a)` (R11). -/
def le16 (s : State) (a : Nat) : Option Nat := memRead s a 2

/-- `LE32(a)` (R11). -/
def le32 (s : State) (a : Nat) : Option Nat := memRead s a 4

/-- The host's write of one AMEM byte, by its own path (R34). -/
def amemStore (a : Nat) (b : Byte) (s : State) : State := { s with amem := sparseSet s.amem a b }

/-- The host bus address of a window offset: the platform chooses the base (R49, D36, log 13). -/
def busAddress (offset : BitVec 13) : Nat := Config.windowBase + offset.toNat

/-! ### GRID and the pixel writer -/

/-- `px(R,G,B,A)`: the packed pixel word (R107). -/
def px (r g b a : Byte) : Word :=
  BitVec.ofNat 32 (r.toNat + 256 * g.toNat + 65536 * b.toNat + 16777216 * a.toNat)

/-- `TRANSPARENT = px(0,0,0,0)` (R11, R108). -/
def transparent : Word := px 0 0 0 0

/-- The value of a GRID word, none while no decode since reset has written it (R36, R132). -/
def gridWord (s : State) (k : Nat) : Option Word := sparseGet s.grid k

/-- `GridWrite(k, v)`: the engine's only write to GRID (R109). -/
def gridWrite (k : Nat) (v : Word) (s : State) : State := { s with grid := sparseSet s.grid k v }

/-- The row/col boundary logic (R111). -/
def advance (s : State) : State :=
  { s with
    pixcount := s.pixcount + 1
    col := if s.col.toNat = 31 then 0 else s.col + 1
    row := if s.col.toNat = 31 then (if s.row.toNat = 31 then 0 else s.row + 1) else s.row
    full := if s.col.toNat = 31 ∧ s.row.toNat = 31 then true else s.full }

/-- The GRID word the next pixel goes to: row-major (R31, R110). -/
def gridIndex (s : State) : Nat := 32 * s.row.toNat + s.col.toNat

/-- `write_pixel(v)` (R110). -/
def writePixel (v : Word) (s : State) : State := advance (gridWrite (gridIndex s) v s)

/-! ### Taking an error, and what ends it -/

/-- `finish(e)`: the one way a command ends, with or without an error (R76, R115, R121).
SPRDEC has no handler, saved return point or mode, so this is all that taking an error does. -/
def finish (e : Err) (s : State) : State := { s with err := e, busy := false, done := true, fsm := .idle }

/-- The acceptance of a command (R74). SPRDEC has no return from an error: the next acceptance is what ends it (R122). -/
def accept (op : BitVec 4) (s : State) : State :=
  { s with op := op, done := false, err := .ok, nfReason := .none, busy := true, fsm := .exec }

/-- A host write that is refused: nothing but HOST_VIOL changes (R71, R74, R119). -/
def dropWrite (s : State) : State := { s with hostViol := true }

/-! ### What the commands share -/

/-- LOADED, SIGNATURE and SPRITE_COUNT to 0, as UNLOAD and a failed LOAD leave them (R79, R81). -/
def clearArchive (s : State) : State := { s with loaded := false, signature := 0, spriteCount := 0 }

/-- SIGNATURE takes the header's 32-bit word (R24, R81). -/
def latchSignature (sig : Word) (s : State) : State := { s with signature := sig }

/-- SPRITE_COUNT takes N and the archive is loaded (R20, R25, R81). -/
def latchCount (n : Half) (s : State) : State := { s with spriteCount := n, loaded := true }

/-- BLK_START and BLK_LEN take a resolved range (R27, R88). -/
def setRange (start size : Word) (s : State) : State := { s with blkStart := start, blkLen := size }

/-- NF_REASON takes a reason (R88). -/
def setReason (k : NfReason) (s : State) : State := { s with nfReason := k }

/-- Skip the color key: the cursor stands at block byte 3 (R58, R98). -/
def skipKey (s : State) : State := { s with cursor := 3 }

/-- Skip the declared size: the cursor stands at block byte 5 (R58, R98). -/
def skipDsize (s : State) : State := { s with cursor := 5 }

/-- `start_decode()` (R98): step 1 of the reference decode and the counters; no AMEM byte is read. -/
def startDecode (s : State) : State :=
  { s with
    cursor := if s.blkLen.toNat ≤ 5 then 3 else 5
    run := 0
    pixcount := 0
    row := 0
    col := 0
    full := false
    shortTail := false
    runClipped := false
    fsm := .fetchT }

/-- A run length is loaded and its two bytes are passed (R29, R99, R101). -/
def loadRun (n : Half) (next : FsmState) (s : State) : State :=
  { s with run := n, cursor := s.cursor + 2, fsm := next }

/-- One pixel of the run is gone (R29). -/
def countRun (s : State) : State := { s with run := s.run - 1 }

/-- The rest of a run is dropped because the budget is full (R29, R100, R102). -/
def clipRun (next : FsmState) (s : State) : State := { s with runClipped := true, run := 0, fsm := next }

/-- The rest of a colored run is cut because fewer than 3 bytes remain (R29, R102). -/
def cutRun (s : State) : State := { s with shortTail := true, run := 0, fsm := .fetchT }

/-- `STATE <- S` (R11). -/
def goTo (next : FsmState) (s : State) : State := { s with fsm := next }

/-- The reset input (R131, R132): every register 0, IDLE, GRID without values; AMEM is the host's and stays.
DESIGN CHOICE (log 7): the events still scheduled stay too. -/
def resetInput (s : State) : State :=
  { State.resetWith s.amemSize with amem := s.amem, events := s.events }

end Sys2Proof.Machine
end

