-- ==== Sys2Proof/Machine/Control.lean ====
section
/-! DEFINITION. The commands with no datapath work: NOP, UNLOAD and the reserved opcodes (40_host_interface.md R78 to R80). -/

namespace Sys2Proof.Machine

/-- NOP (R78): no effect while BUSY = 0; while BUSY = 1 it is a dropped write. It runs at the CMD write, never in EXEC (R74, log 8). -/
def execNop (s : State) : Host.Outcome State Fault Refusal := if s.busy then .next (dropWrite s) else .next s

/-- UNLOAD (R79). -/
def execUnload (s : State) : Host.Outcome State Fault Refusal := .next (finish .ok (clearArchive s))

/-- The reserved opcodes 0x6 and 0x7 (R80). -/
def execReserved67 (_op : BitVec 4) (s : State) : Host.Outcome State Fault Refusal := .next (finish .badCmd s)

/-- The reserved opcodes 0x8 to 0xF (R80). -/
def execReserved8F (_op : BitVec 4) (s : State) : Host.Outcome State Fault Refusal := .next (finish .badCmd s)

end Sys2Proof.Machine
end

