-- ==== Sys2Proof/Machine/Operands.lean ====
section
/-! DEFINITION. What the commands and engine steps read: the block's bytes (43_rle_decoder.md R92), the offset table
(10_state.md R35), the range of a sprite (42_sprite_extractor.md R87), and the token the engine's state selects (R60). -/

namespace Sys2Proof.Machine

/-! ### The block -/

/-- `n` bytes of the block from index `k`: `blk(k) .. blk(k+n−1)` (R92). -/
def blkBytes (s : State) (k n : Nat) : Option (List Byte) := amemBytes s (s.blkStart.toNat + k) n

/-- The DECODE range check (R95), with the sum computed exactly. -/
abbrev RangeOk (s : State) : Prop :=
  s.archiveLen.toNat ≤ s.amemSize.toNat ∧ s.blkStart.toNat + s.blkLen.toNat ≤ s.archiveLen.toNat

/-! ### The offset table -/

/-- `OFF(i)`: the constant 0 at index 0, else read from AMEM at each use (R35). -/
def offEntry (s : State) (i : Nat) : Option Nat :=
  if i = 0 then some 0 else le32 s (Config.headerLen + 4 * (i - 1))

/-- The whole offset table: entry 0 and the entries 1 to N (R35, R86). -/
def offsetTable (s : State) : List (Option Nat) := (List.range (s.spriteCount.toNat + 1)).map (offEntry s)

/-! ### The sprite-range calculator -/

/-- The result of `resolve(id)` (R87). -/
inductive Resolved where
  | notFound (k : NfReason)
  | found (start size : Word)
deriving DecidableEq, Repr

/-- The last part of `resolve`: the range from a non-zero start and the resolved end (R87).
`size` is a signed integer and the sum is exact. -/
def rangeOf (start stop len : Nat) : Resolved :=
  let stop := if stop = 0 then len else stop
  let size : Int := (stop : Int) - (start : Int)
  if size ≤ 0 then .notFound .emptyRange
  else if (start : Int) + size > (len : Int) then .notFound .pastEnd
  else .found (BitVec.ofNat 32 start) (BitVec.ofNat 32 size.toNat)

/-- The end of sprite SPRITE_ID before a zero is replaced: the next entry, or the archive length for the last sprite (R87).
`none` is an engine read outside AMEM. -/
def endEntry (s : State) : Option Nat :=
  if s.spriteId.toNat < s.spriteCount.toNat then offEntry s (s.spriteId.toNat + 1) else some s.archiveLen.toNat

/-- `resolve` from the stored start offset on (R87). R87 gives it a meaning for 1 ≤ SPRITE_ID ≤ N; outside, where `resolve` never
comes, the end is that of a last sprite or the archive's (DESIGN CHOICE, log 15). -/
def resolveFrom (s : State) (start : Nat) : Option Resolved :=
  if start = 0 then some (.notFound .zeroOffset)
  else (endEntry s).map fun stop => rangeOf start stop s.archiveLen.toNat

/-- `resolve(SPRITE_ID)` (R87). -/
def resolve (s : State) : Option Resolved :=
  if s.spriteId.toNat < 1 ∨ s.spriteCount.toNat < s.spriteId.toNat then some (.notFound .idRange)
  else (offEntry s s.spriteId.toNat).bind (resolveFrom s)

/-- `resolve` when the end entry read is known: the start is the sprite's own stored offset (R87, log 9).
DESIGN CHOICE (log 15): SPRITE_ID is not tested, so outside 1 .. N the start is read as the offset formula gives it. -/
def resolveTo (s : State) (stop : Nat) : Option Resolved :=
  (offEntry s s.spriteId.toNat).map fun start =>
    if start = 0 then .notFound .zeroOffset else rangeOf start stop s.archiveLen.toNat

/-- What EXTRACT and EXTRACT_DECODE do with a result (R88, R97): `onFound` is what follows the new block range. -/
def settle (onFound : State → State) (res : Option Resolved) (s : State) : Host.Outcome State Fault Refusal :=
  match res with
  | none => .fault .amemRange
  | some (.notFound k) => .next (finish .notFound (setReason k s))
  | some (.found start size) => .next (onFound (setRange start size s))

/-! ### The token the state selects -/

/-- The token kind that the engine's state selects from the byte stream (R60, R62), if this step reads one. -/
def selectedSlot (s : State) : Option Slot :=
  match s.fsm with
  | .idle => none
  | .exec => none
  | .fetchT => if s.cursor.toNat + 2 ≤ s.blkLen.toNat ∧ s.pixcount.toNat < Config.gridPixels then some .trun else none
  | .emitT => none
  | .fetchC => if s.cursor.toNat + 2 ≤ s.blkLen.toNat then some .crun else none
  | .emitC =>
      if s.run.toNat ≠ 0 ∧ s.pixcount.toNat ≠ Config.gridPixels ∧ s.cursor.toNat + 3 ≤ s.blkLen.toNat then some .rgb else none
  | .pad => none

/-- The token of a given kind at the cursor: its bytes through the read port, decoded (R60, R92). -/
def fetchToken (slot : Slot) (s : State) : Option Instr :=
  (blkBytes s s.cursor.toNat slot.length).bind fun bs => (decode slot bs).toOption.map Prod.fst

end Sys2Proof.Machine
end

