-- ==== Sys2Proof/Machine/Decoder.lean ====
section
/-! DEFINITION. The run-length decoder's commands and tokens: DECODE, EXTRACT_DECODE, KEY, DSIZE, TRUN, CRUN and RGB
(43_rle_decoder.md). The steps of its state machine that read no token are in Machine/Engine.lean. -/

namespace Sys2Proof.Machine

/-- DECODE (R96): the range check of R95, then `start_decode`. -/
def execDecode (s : State) : Host.Outcome State Fault Refusal :=
  if s.archiveLen.toNat > s.amemSize.toNat ∨ s.blkStart.toNat + s.blkLen.toNat > s.archiveLen.toNat then
    .next (finish .badRange s)
  else .next (startDecode s)

/-- EXTRACT_DECODE (R97). -/
def execExtractDecode (s : State) : Host.Outcome State Fault Refusal :=
  if s.loaded then settle startDecode (resolve s) s else .next (finish .notLoaded s)

/-- KEY: skipped, its bytes never read or latched (R58, R98, I2, log 9). -/
def execKey (_k0 _k1 _k2 : Byte) (s : State) : Host.Outcome State Fault Refusal := .next (skipKey s)

/-- DSIZE: skipped, its value never read or validated (R58, R98, I3, log 9). -/
def execDsize (_d : Half) (s : State) : Host.Outcome State Fault Refusal := .next (skipDsize s)

/-- TRUN: the transparent run length is read (R99). -/
def execTrun (t : Half) (s : State) : Host.Outcome State Fault Refusal := .next (loadRun t .emitT s)

/-- CRUN: the colored run length is read (R101). -/
def execCrun (c : Half) (s : State) : Host.Outcome State Fault Refusal := .next (loadRun c .emitC s)

/-- The three bytes of an RGB token are passed (R102). -/
def passRgb (s : State) : State := { s with cursor := s.cursor + 3 }

/-- RGB: one opaque pixel is written (R102, R108). -/
def execRgb (r g b : Byte) (s : State) : Host.Outcome State Fault Refusal :=
  .next (countRun (passRgb (writePixel (px r g b 255) s)))

end Sys2Proof.Machine
end

