-- ==== Sys2Proof/Machine/Extractor.lean ====
section
/-! DEFINITION. The sprite-range calculator: EXTRACT and the offset-table entry (42_sprite_extractor.md). -/

namespace Sys2Proof.Machine

/-- EXTRACT (R88). -/
def execExtract (s : State) : Host.Outcome State Fault Refusal :=
  if s.loaded then settle (finish .ok) (resolve s) s else .next (finish .notLoaded s)

/-- What a Found range leads to: EXTRACT_DECODE, when it is the command under way, starts the decode; EXTRACT finishes (R88, R97). -/
def onFound (s : State) : State := if s.op.toNat = 5 then startDecode s else finish .ok s

/-- OFFSET_ENTRY as EXTRACT and EXTRACT_DECODE read it for SPRITE_ID (R87, R90, log 9): as the start, 0 means an empty sprite,
else the end is looked up; as the end, 0 means the end of the archive.
DESIGN CHOICE (log 15): the token by itself tests neither LOADED nor SPRITE_ID against 1 .. N, which the commands test before they
read it; and as the end it is used for SPRITE_ID = N too, where `resolve` reads no end entry. -/
def execOffsetEntry (role : EntryRole) (off : Word) (s : State) : Host.Outcome State Fault Refusal :=
  match role with
  | .start => settle onFound (resolveFrom s off.toNat) s
  | .stop => settle onFound (resolveTo s off.toNat) s

end Sys2Proof.Machine
end

