-- ==== Sys2Proof/Machine/Loader.lean ====
section
/-! DEFINITION. The archive loader: LOAD and the two header tokens it reads (41_archive_loader.md). -/

namespace Sys2Proof.Machine

/-- A LOAD that fails with the given error: nothing stays loaded (R81, R83). -/
def loadFail (e : Err) (s : State) : State := finish e (clearArchive s)

/-- The part of LOAD from the sprite count on: the table must fit the archive (R81). -/
def loadCount (n : Half) (s : State) : State :=
  if Config.headerLen + 4 * n.toNat > s.archiveLen.toNat then loadFail .format s else finish .ok (latchCount n s)

/-- LOAD (R81): the checks in the order BADLEN, FORMAT, FORMAT (R120), then the header. -/
def execLoad (s : State) : Host.Outcome State Fault Refusal :=
  if s.archiveLen.toNat > s.amemSize.toNat then .next (loadFail .badLen s)
  else if s.archiveLen.toNat < Config.headerLen then .next (loadFail .format s)
  else
    match le32 s 0, le16 s 4 with
    | some sig, some n => .next (loadCount (BitVec.ofNat 16 n) (latchSignature (BitVec.ofNat 32 sig) s))
    | _, _ => .fault .amemRange

/-- HDR_SIG as LOAD reads it: any value is accepted and copied to SIGNATURE (R81, log 9). -/
def execHdrSig (sig : Word) (s : State) : Host.Outcome State Fault Refusal := .next (latchSignature sig s)

/-- HDR_COUNT as LOAD reads it: the table check, and what follows from it (R81, log 9). -/
def execHdrCount (n : Half) (s : State) : Host.Outcome State Fault Refusal := .next (loadCount n s)

end Sys2Proof.Machine
end

