-- ==== Sys2Proof/Machine/Dispatch.lean ====
section
/-! DEFINITION. One arm per row of spec/opcode_table.json. -/

namespace Sys2Proof.Machine

/-- What an instruction does: for a command row its EXEC step (40_host_interface.md R75), for NOP its CMD write (R74),
for a stream token what the engine does on reading it. -/
def exec (i : Instr) (s : State) : Host.Outcome State Fault Refusal :=
  match i with
  | .nop => Sys2Proof.Machine.execNop s
  | .load => Sys2Proof.Machine.execLoad s
  | .unload => Sys2Proof.Machine.execUnload s
  | .extract => Sys2Proof.Machine.execExtract s
  | .decode => Sys2Proof.Machine.execDecode s
  | .extractDecode => Sys2Proof.Machine.execExtractDecode s
  | .reserved67 op => Sys2Proof.Machine.execReserved67 op s
  | .reserved8F op => Sys2Proof.Machine.execReserved8F op s
  | .hdrSig sig => Sys2Proof.Machine.execHdrSig sig s
  | .hdrCount n => Sys2Proof.Machine.execHdrCount n s
  | .offsetEntry role off => Sys2Proof.Machine.execOffsetEntry role off s
  | .key k0 k1 k2 => Sys2Proof.Machine.execKey k0 k1 k2 s
  | .dsize d => Sys2Proof.Machine.execDsize d s
  | .trun t => Sys2Proof.Machine.execTrun t s
  | .crun c => Sys2Proof.Machine.execCrun c s
  | .rgb r g b => Sys2Proof.Machine.execRgb r g b s

end Sys2Proof.Machine
end

