-- ==== Sys2Proof/Machine/Engine.lean ====
section
/-! DEFINITION. The engine's step, one definition per control state of 10_state.md R33: the EXEC dispatch (40 R75) and the
decoder's state machine (43 R99 to R102, 44 R113). A step that reads a token runs that token's meaning. -/

namespace Sys2Proof.Machine

/-- Read the token of the given kind at the cursor and run it. The fault is an engine read outside AMEM (R41); no run reaches it. -/
def runToken (slot : Slot) (s : State) : Host.Outcome State Fault Refusal :=
  match fetchToken slot s with
  | some i => exec i s
  | none => .fault .amemRange

/-- STATE = EXEC: dispatch on FSM.OP (R75). OP = 0 can never be here (R75, log 8). -/
def execStep (s : State) : Host.Outcome State Fault Refusal :=
  if s.op.toNat = 0 then .fault .execNop else exec (decodeOp s.op) s

/-- STATE = FETCH_T (R99). -/
def fetchTStep (s : State) : Host.Outcome State Fault Refusal :=
  if s.cursor.toNat + 2 ≤ s.blkLen.toNat ∧ s.pixcount.toNat < Config.gridPixels then runToken .trun s
  else .next (goTo .pad s)

/-- STATE = EMIT_T (R100). -/
def emitTStep (s : State) : Host.Outcome State Fault Refusal :=
  if s.run.toNat = 0 then .next (goTo .fetchC s)
  else if s.pixcount.toNat = Config.gridPixels then .next (clipRun .fetchC s)
  else .next (countRun (writePixel transparent s))

/-- STATE = FETCH_C (R101): the budget is not tested. -/
def fetchCStep (s : State) : Host.Outcome State Fault Refusal :=
  if s.cursor.toNat + 2 ≤ s.blkLen.toNat then runToken .crun s else .next (goTo .pad s)

/-- STATE = EMIT_C (R102). After a short tail the loop is tested again (R94). -/
def emitCStep (s : State) : Host.Outcome State Fault Refusal :=
  if s.run.toNat = 0 then .next (goTo .fetchT s)
  else if s.pixcount.toNat = Config.gridPixels then .next (clipRun .fetchT s)
  else if s.cursor.toNat + 3 ≤ s.blkLen.toNat then runToken .rgb s
  else .next (cutRun s)

/-- STATE = PAD (R113). -/
def padStep (s : State) : Host.Outcome State Fault Refusal :=
  if s.pixcount.toNat < Config.gridPixels then .next (writePixel transparent s) else .next (finish .ok s)

/-- One turn of the engine (R33). In IDLE it takes no step (R77). -/
def engineStep (s : State) : Host.Outcome State Fault Refusal :=
  match s.fsm with
  | .idle => .next s
  | .exec => execStep s
  | .fetchT => fetchTStep s
  | .emitT => emitTStep s
  | .fetchC => fetchCStep s
  | .emitC => emitCStep s
  | .pad => padStep s

end Sys2Proof.Machine
end

