-- ==== Sys2Proof/Machine/Flags.lean ====
section
/-! DEFINITION. SPRDEC has no condition codes (10_state.md R38): its flags are the STATUS bits. Here are the codes of R21, R22
and R33, the words the window shows (R17, R20), the write-1-to-clear of STATUS (R72) and the interrupt output (R124). -/

namespace Sys2Proof.Machine

/-- The value of STATUS.ERR (R21). -/
def Err.code : Err → Nat
  | .ok => 0
  | .format => 1
  | .notFound => 2
  | .notLoaded => 3
  | .badRange => 4
  | .badLen => 5
  | .badCmd => 6

/-- The value of STATUS.NF_REASON (R22). -/
def NfReason.code : NfReason → Nat
  | .none => 0
  | .idRange => 1
  | .zeroOffset => 2
  | .emptyRange => 3
  | .pastEnd => 4

/-- The value of FSM.STATE (R33). -/
def FsmState.code : FsmState → Nat
  | .idle => 0
  | .exec => 1
  | .fetchT => 2
  | .emitT => 3
  | .fetchC => 4
  | .emitC => 5
  | .pad => 6

/-- CTRL as the host reads it (R17, R19). -/
def ctrlWord (s : State) : Word := BitVec.ofNat 32 s.irqEn.toNat

/-- STATUS as the host reads it (R20). -/
def statusWord (s : State) : Word :=
  BitVec.ofNat 32
    (s.busy.toNat + 2 * s.done.toNat + 4 * s.loaded.toNat + 8 * s.hostViol.toNat + 16 * s.err.code
      + 256 * s.nfReason.code + 4096 * s.shortTail.toNat + 8192 * s.runClipped.toNat)

/-- ROWCOL as the host reads it (R17, R31). -/
def rowcolWord (s : State) : Word := BitVec.ofNat 32 (s.col.toNat + 256 * s.row.toNat + 65536 * s.full.toNat)

/-- FSM as the host reads it (R17, R32). -/
def fsmWord (s : State) : Word := BitVec.ofNat 32 (s.fsm.code + 16 * s.op.toNat)

/-- A host write of w to STATUS: bit 1 clears DONE, bit 3 clears HOST_VIOL, nothing else (R72). -/
def writeStatus (w : Word) (s : State) : State :=
  { s with done := s.done && !w.getLsbD 1, hostViol := s.hostViol && !w.getLsbD 3 }

/-- A host write of w to CTRL (R73). -/
def writeCtrl (w : Word) (s : State) : State := { s with irqEn := w.getLsbD 0 }

/-- IRQ = CTRL.IRQ_EN AND STATUS.DONE, a level and a function of state (R37, R124). -/
def irq (s : State) : Bool := s.irqEn && s.done

end Sys2Proof.Machine
end

