-- ==== Sys2Proof/Machine/HostPort.lean ====
section
/-! DEFINITION. What the host can do: reads and writes of the register window (10_state.md R17, 40_host_interface.md R70 to
R74), AMEM accesses by its own path (20_memory.md R40, R53), WAIT and reset; and one event of the total order (R51). -/

namespace Sys2Proof.Machine

/-- What stands at a window offset (R17). -/
inductive WindowReg where
  | cmd
  | ctrl
  | status
  | archiveLen
  | signature
  | spriteCount
  | spriteId
  | blkStart
  | blkLen
  | cursor
  | run
  | pixcount
  | rowcol
  | fsm
  | reserved
  | grid (k : Nat)
deriving DecidableEq, Repr

/-- The register window's layout, for an aligned offset (R17). -/
def windowReg (offset : BitVec 13) : WindowReg :=
  match offset.toNat / 4 with
  | 0 => .cmd
  | 1 => .ctrl
  | 2 => .status
  | 3 => .archiveLen
  | 4 => .signature
  | 5 => .spriteCount
  | 6 => .spriteId
  | 7 => .blkStart
  | 8 => .blkLen
  | 9 => .cursor
  | 10 => .run
  | 11 => .pixcount
  | 12 => .rowcol
  | 13 => .fsm
  | n => if n < 1024 then .reserved else .grid (n - 1024)

/-- An access that has a meaning: an aligned 32-bit word (R70). -/
abbrev AlignedWord (offset : BitVec 13) (size : AccessSize) : Prop := size = .word ∧ offset.toNat % 4 = 0

/-- The value of a register as the host reads it (R17, R70); none for a GRID word that holds no value (R132). -/
def readReg (r : WindowReg) (s : State) : Option Word :=
  match r with
  | .cmd => some 0
  | .ctrl => some (ctrlWord s)
  | .status => some (statusWord s)
  | .archiveLen => some s.archiveLen
  | .signature => some s.signature
  | .spriteCount => some (s.spriteCount.setWidth 32)
  | .spriteId => some s.spriteId
  | .blkStart => some s.blkStart
  | .blkLen => some s.blkLen
  | .cursor => some s.cursor
  | .run => some (s.run.setWidth 32)
  | .pixcount => some (s.pixcount.setWidth 32)
  | .rowcol => some (rowcolWord s)
  | .fsm => some (fsmWord s)
  | .reserved => some 0
  | .grid k => gridWord s k

/-- The host takes the answer to a read; nothing else changes (R48, log 4). -/
def respond (r : Response) (s : State) : State := { s with response := some r }

/-- A host read of the window (R70). -/
def hostRead (offset : BitVec 13) (size : AccessSize) (s : State) : Host.Outcome State Fault Refusal :=
  if AlignedWord offset size then
    match readReg (windowReg offset) s with
    | some w => .next (respond (.word w) s)
    | none => .fault .gridUnwritten
  else .refused .busAccess

/-- A host write of w to CMD (R74): dropped while BUSY = 1; OP = 0 is NOP (R78); any other OP is accepted. -/
def writeCmd (w : Word) (s : State) : Host.Outcome State Fault Refusal :=
  if s.busy then .next (dropWrite s)
  else if (opField w).toNat = 0 then exec .nop s
  else .next (accept (opField w) s)

/-- A host write of w to the register window's register r (R70 to R74). -/
def writeReg (r : WindowReg) (w : Word) (s : State) : Host.Outcome State Fault Refusal :=
  match r with
  | .cmd => writeCmd w s
  | .ctrl => .next (writeCtrl w s)
  | .status => .next (writeStatus w s)
  | .archiveLen => if s.busy || s.loaded then .next (dropWrite s) else .next { s with archiveLen := w }
  | .signature => .next s
  | .spriteCount => .next s
  | .spriteId => if s.busy then .next (dropWrite s) else .next { s with spriteId := w }
  | .blkStart => if s.busy then .next (dropWrite s) else .next { s with blkStart := w }
  | .blkLen => if s.busy then .next (dropWrite s) else .next { s with blkLen := w }
  | .cursor => .next s
  | .run => .next s
  | .pixcount => .next s
  | .rowcol => .next s
  | .fsm => .next s
  | .reserved => .next s
  | .grid _ => .next s

/-- A host write of the window (R70). -/
def hostWrite (offset : BitVec 13) (size : AccessSize) (w : Word) (s : State) : Host.Outcome State Fault Refusal :=
  if AlignedWord offset size then writeReg (windowReg offset) w s else .refused .busAccess

/-- A host read of one AMEM byte by its own path (R40). DESIGN CHOICE (log 5): an address ≥ AMEM_SIZE does not exist and faults. -/
def hostAmemRead (addr : Word) (s : State) : Host.Outcome State Fault Refusal :=
  match amemByte s addr.toNat with
  | some b => .next (respond (.byte b) s)
  | none => .fault .hostAmemRange

/-- The duties H-1 and H-2 (R135): no AMEM byte changes while BUSY = 1, and no archive byte while LOADED = 1. -/
abbrev AmemDuty (addr : Word) (s : State) : Prop := s.busy = false ∧ (s.loaded = true → s.archiveLen.toNat ≤ addr.toNat)

/-- A host write of one AMEM byte by its own path (R34). A write in breach of H-1 or H-2 is no move of the host's (R53, I20).
DESIGN CHOICE (log 5): an address ≥ AMEM_SIZE does not exist and faults. -/
def hostAmemWrite (addr : Word) (b : Byte) (s : State) : Host.Outcome State Fault Refusal :=
  if addr.toNat < s.amemSize.toNat then
    if AmemDuty addr s then .next (amemStore addr.toNat b s) else .refused .amemDuty
  else .fault .hostAmemRange

/-- Put an event back at the head of the schedule. -/
def reschedule (e : Event) (s : State) : State := { s with events := e :: s.events }

/-- The host's WAIT (R69): while BUSY = 1 the poll goes on and the engine gets its turn (R137); then the last poll's STATUS is read.
DEDUCED (log 6): the polls in between have no side effect (R48) and are not steps of their own. -/
def hostWait (s : State) : Host.Outcome State Fault Refusal :=
  if s.busy then engineStep (reschedule .wait s) else .next (respond (.word (statusWord s)) s)

/-- One event of the total order (R51). -/
def runEvent (e : Event) (s : State) : Host.Outcome State Fault Refusal :=
  match e with
  | .engine => engineStep s
  | .read offset size => hostRead offset size s
  | .write offset size w => hostWrite offset size w s
  | .amemRead addr => hostAmemRead addr s
  | .amemWrite addr b => hostAmemWrite addr b s
  | .wait => hostWait s
  | .reset => .next (resetInput s)

end Sys2Proof.Machine
end

