-- ==== Sys2Proof/Machine/HostProgram.lean ====
section
/-! DEFINITION. The spec's own notation (30_encoding.md R67 to R69): byte directives, and host program lines with their
pseudo-instructions, as functions to bytes and to events (log 12). -/

namespace Sys2Proof.Machine

/-- The offset of a window register (R17), and of a GRID word (R36). -/
def WindowReg.offset : WindowReg → BitVec 13
  | .cmd => 0x000
  | .ctrl => 0x004
  | .status => 0x008
  | .archiveLen => 0x00C
  | .signature => 0x010
  | .spriteCount => 0x014
  | .spriteId => 0x018
  | .blkStart => 0x01C
  | .blkLen => 0x020
  | .cursor => 0x024
  | .run => 0x028
  | .pixcount => 0x02C
  | .rowcol => 0x030
  | .fsm => 0x034
  | .reserved => 0x038
  | .grid k => BitVec.ofNat 13 (0x1000 + 4 * k)

/-- The byte-stream directives (R68). -/
inductive Directive where
  | sig (v : Word)
  | count (n : Half)
  | off (v : Word)
  | key (k0 k1 k2 : Byte)
  | dsize (n : Half)
  | t (n : Half)
  | c (n : Half)
  | rgb (r g b : Byte)
  | byte (bs : List Byte)
deriving DecidableEq, Repr

/-- The bytes a directive emits, in stream order (R68). -/
def Directive.bytes : Directive → List Byte
  | .sig v => leBytes 4 v.toNat
  | .count n => leBytes 2 n.toNat
  | .off v => leBytes 4 v.toNat
  | .key k0 k1 k2 => [k0, k1, k2]
  | .dsize n => leBytes 2 n.toNat
  | .t n => leBytes 2 n.toNat
  | .c n => leBytes 2 n.toNat
  | .rgb r g b => [r, g, b]
  | .byte bs => bs

/-- The bytes of a sequence of directives. -/
def assemble (ds : List Directive) : List Byte := ds.flatMap Directive.bytes

/-- The lines of a host program (R67) and the pseudo-instructions (R69). `cmd` and `run` take the opcode of the mnemonic. -/
inductive HostLine where
  | wr (r : WindowReg) (w : Word)
  | rd (r : WindowReg)
  | rdg (k : Nat)
  | cmd (op : BitVec 4)
  | poke (addr : Word) (bs : List Byte)
  | wait
  | run (op : BitVec 4)
  | sprite (id : Word)
  | decodeAt (start len : Word)
  | loadArchive (len : Word)
  | ack
deriving DecidableEq, Repr

/-- `WR <REG>, <value>` as an event (R67). -/
def wrEvent (r : WindowReg) (w : Word) : Event := .write r.offset .word w

/-- `CMD <MNEMONIC>` as an event (R67). -/
def cmdEvent (op : BitVec 4) : Event := wrEvent .cmd (op.setWidth 32)

/-- The byte writes of a POKE, one event each, from an address up. -/
def pokeEvents (addr : Word) : List Byte → List Event
  | [] => []
  | b :: bs => .amemWrite addr b :: pokeEvents (addr + 1) bs

/-- The events of a host program line, pseudo-instructions expanded (R67, R69). -/
def HostLine.events : HostLine → List Event
  | .wr r w => [wrEvent r w]
  | .rd r => [.read r.offset .word]
  | .rdg k => [.read (WindowReg.grid k).offset .word]
  | .cmd op => [cmdEvent op]
  | .poke addr bs => pokeEvents addr bs
  | .wait => [.wait]
  | .run op => [cmdEvent op, .wait]
  | .sprite id => [wrEvent .spriteId id, cmdEvent 5, .wait]
  | .decodeAt start len => [wrEvent .blkStart start, wrEvent .blkLen len, cmdEvent 4, .wait]
  | .loadArchive len => [wrEvent .archiveLen len, cmdEvent 1, .wait]
  | .ack => [wrEvent .status 0x0000000A]

/-- A host program put on the schedule (R67). -/
def scheduleProgram (lines : List HostLine) (s : State) : State :=
  { s with events := s.events ++ lines.flatMap HostLine.events }

end Sys2Proof.Machine
end

