-- ==== Sys2Proof/Machine/Reference.lean ====
section
/-! DEFINITION. The reference decode of a byte sequence (43_rle_decoder.md R93), on byte indices and lists of pixel words.
The machine never calls it; rule R103 says the machine computes it. -/

namespace Sys2Proof.Machine

/-- A point of the reference decode: the cursor, the pixels produced in stream order, and how many T and C were read (R76's k). -/
structure RefRun where
  cur : Nat
  pix : List Word
  tokens : Nat
deriving DecidableEq, Repr

/-- The 16-bit little-endian value at byte `k` (R93). -/
def ref16 (b : Nat → Byte) (k : Nat) : Nat := (b k).toNat + 256 * (b (k + 1)).toNat

/-- Step 2a's append, and what EMIT_T does to a run: at most `t` transparent pixels, capped at the budget (R93). -/
def refTransparent (t : Nat) (p : List Word) : List Word :=
  p ++ List.replicate (min t (Config.gridPixels - p.length)) transparent

/-- Step 2d: at most `c` colored pixels, ended by the budget (D10) or by fewer than 3 bytes remaining (R93). -/
def refColored (b : Nat → Byte) (n : Nat) : Nat → Nat → List Word → Nat × List Word
  | 0, cur, p => (cur, p)
  | c + 1, cur, p =>
      if p.length = Config.gridPixels then (cur, p)
      else if cur + 3 > n then (cur, p)
      else refColored b n c (cur + 3) (p ++ [px (b cur) (b (cur + 1)) (b (cur + 2)) 255])

/-- Step 2, the loop (R93). `fuel` bounds the iterations; each takes at least 2 bytes, so the block's length is enough. -/
def refLoop (b : Nat → Byte) (n : Nat) : Nat → RefRun → RefRun
  | 0, r => r
  | fuel + 1, r =>
      if r.cur + 2 ≤ n ∧ r.pix.length < Config.gridPixels then
        let cur := r.cur + 2
        let p := refTransparent (ref16 b r.cur) r.pix
        if cur + 2 > n then { cur := cur, pix := p, tokens := r.tokens + 1 }
        else
          let q := refColored b n (ref16 b cur) (cur + 2) p
          refLoop b n fuel { cur := q.1, pix := q.2, tokens := r.tokens + 2 }
      else r

/-- Step 3: transparent pixels up to the budget (R93). -/
def refPad (p : List Word) : List Word := p ++ List.replicate (Config.gridPixels - p.length) transparent

/-- Step 1: the starting cursor (R93, R98). -/
def refStart (n : Nat) : RefRun := { cur := if n ≤ 5 then 3 else 5, pix := [], tokens := 0 }

/-- The reference decode with its final cursor and token count. -/
def refRun (b : Nat → Byte) (n : Nat) : RefRun :=
  let r := refLoop b n n (refStart n)
  { r with pix := refPad r.pix }

/-- `rle_decode(b, n)`: the pixel words, in stream order (R93). -/
def rleDecode (b : Nat → Byte) (n : Nat) : List Word := (refRun b n).pix

/-- Byte `k` of the block in AMEM, for the reference decode (R92). -/
def blockByte (s : State) (k : Nat) : Byte := amemValue s (s.blkStart.toNat + k)

end Sys2Proof.Machine
end

