-- ==== Sys2Proof/Machine/Step.lean ====
section
/-! DEFINITION. One step of the machine: the next event of the total order (20_memory.md R51), or the engine's turn when none is
scheduled; and the placing of an instruction where the step fetches it. -/

namespace Sys2Proof.Machine

/-- One step (R51, log 1). -/
def step (s : State) : Host.Outcome State Fault Refusal :=
  match s.events with
  | [] => engineStep s
  | e :: rest => runEvent e { s with events := rest }

/-- `s` with the command word `w` (its `nbits` bits, the bits above 0) where the next step runs it (log 8).
A command is fetched by its acceptance (R74), and its EXEC step is then next; NOP is never accepted and runs at its CMD write. -/
def State.withFetchWord (s : State) (nbits w : Nat) : State :=
  let word : Word := BitVec.ofNat 32 (w % 2 ^ nbits)
  if (opField word).toNat = 0 then
    { s with busy := false, fsm := .idle, events := wrEvent .cmd word :: s.events }
  else
    { accept (opField word) s with events := .engine :: s.events }

end Sys2Proof.Machine
end

