-- ==== Sys2Proof/Safety.lean ====
section
/-! DEFINITION. The terms that claims use: the decoding states, what a decode under way still owes, the invariant of
10_state.md R39 in the form that every step keeps, reachable states, and the end of a run (70_reset_and_hazards.md R138). -/

namespace Sys2Proof.Machine

/-- The states of a decode under way (R39 item 3). -/
def FsmState.decoding : FsmState → Bool
  | .idle => false
  | .exec => false
  | .fetchT => true
  | .emitT => true
  | .fetchC => true
  | .emitC => true
  | .pad => true

/-- What the reference decode (R93) still does from a state of the machine whose pixels so far are `p`, padding included:
FETCH_T is the loop test, EMIT_T the capped append, FETCH_C steps 2b and 2c, EMIT_C step 2d and PAD step 3 (R103).
Its `tokens` are the T and C still to be read. -/
def resume (s : State) (p : List Word) : RefRun :=
  let b := blockByte s
  let n := s.blkLen.toNat
  let loop (cur : Nat) (p : List Word) : RefRun :=
    let r := refLoop b n n { cur := cur, pix := p, tokens := 0 }
    { r with pix := refPad r.pix }
  let colored (c cur : Nat) (p : List Word) : RefRun :=
    let q := refColored b n c cur p
    loop q.1 q.2
  let fetchC (cur : Nat) (p : List Word) : RefRun :=
    if cur + 2 > n then { cur := cur, pix := refPad p, tokens := 0 }
    else
      let r := colored (ref16 b cur) (cur + 2) p
      { r with tokens := r.tokens + 1 }
  match s.fsm with
  | .idle => { cur := s.cursor.toNat, pix := p, tokens := 0 }
  | .exec => { cur := s.cursor.toNat, pix := p, tokens := 0 }
  | .fetchT => loop s.cursor.toNat p
  | .emitT => fetchC s.cursor.toNat (refTransparent s.run.toNat p)
  | .fetchC => fetchC s.cursor.toNat p
  | .emitC => colored s.run.toNat s.cursor.toNat p
  | .pad => { cur := s.cursor.toNat, pix := refPad p, tokens := 0 }

/-- GRID words 0 .. PIXCOUNT − 1 hold the pixel words `p` (R39 item 3). -/
def GridHolds (s : State) (p : List Word) : Prop :=
  p.length = s.pixcount.toNat ∧ ∀ k, k < p.length → gridWord s k = p[k]?

/-- The invariant of R39, with what it takes for every step to keep it from any state that meets it:
`output` says that the decode so far and the rest of it make up the reference decode. -/
structure Inv (s : State) : Prop where
  /-- R39 item 1. -/
  busyIff : s.busy = true ↔ s.fsm ≠ .idle
  /-- R39 item 1. -/
  doneIdle : s.done = true → s.busy = false
  /-- R39 item 2. -/
  position : s.pixcount.toNat = 1024 * s.full.toNat + 32 * s.row.toNat + s.col.toNat
  /-- R39 item 2. -/
  fullOrigin : s.full = true → s.row = 0 ∧ s.col = 0
  /-- R39 item 3. -/
  range : s.fsm.decoding = true → RangeOk s ∧ s.cursor.toNat ≤ max s.blkLen.toNat 3
  /-- R39 item 3. -/
  output : s.fsm.decoding = true → ∃ p, GridHolds s p ∧
    (resume s p).cur = (refRun (blockByte s) s.blkLen.toNat).cur ∧
    (resume s p).pix = rleDecode (blockByte s) s.blkLen.toNat
  /-- R39 item 4. -/
  archive : s.loaded = true → s.archiveLen.toNat ≤ s.amemSize.toNat ∧
    Config.headerLen + 4 * s.spriteCount.toNat ≤ s.archiveLen.toNat ∧
    le32 s 0 = some s.signature.toNat ∧ le16 s 4 = some s.spriteCount.toNat
  /-- R39 item 5. -/
  runZero : s.fsm ≠ .emitT → s.fsm ≠ .emitC → s.run = 0
  /-- R75: OP = 0 is never in EXEC. -/
  execOp : s.fsm = .exec → s.op.toNat ≠ 0
  /-- AMEM keeps its canonical form, inside the address space of R34. -/
  amemForm : s.amem.wf ∧ ∀ c ∈ s.amem, c.1 < s.amemSize.toNat
  /-- GRID keeps its canonical form, inside its 1024 words (R36). -/
  gridForm : s.grid.wf ∧ ∀ c ∈ s.grid, c.1 < Config.gridPixels

/-- The states a run can reach from a state. -/
inductive Reachable (s : State) : State → Prop where
  | start : Reachable s s
  | next {t u : State} : Reachable s t → step t = .next u → Reachable s u

/-- A run has ended: the host's last action is done and STATE = IDLE (R138).
DESIGN CHOICE (log 16): the whole schedule is empty, so a reset or an engine turn still scheduled belongs to the run. -/
def RunEnded (s : State) : Prop := s.events = [] ∧ s.fsm = .idle

end Sys2Proof.Machine
end

