-- ==== Sys2Proof/Certificates/Slice0/Obligations.lean ====
section
/-! DEFINITION. The statements for the provers. Each follows a numbered rule of spec/ (OBLIGATIONS.json says which).
A next state is written out as a record update, so its frame is the fields it does not name. -/

open Sys2Proof Sys2Proof.Machine

/-! ### Encodings -/

/-- A word of each family, its fields laid out as R56, R58, R59 and R65 say, decodes to the instruction it stands for.
That a command word stands as its four little-endian bytes is the model's choice (log 10). -/
def Obligations.SpecWordsDecode : Prop :=
  decode .command [0xF1, 0xFF, 0xFF, 0xFF] = .ok (.load, []) ∧
  decode .command [0x05, 0x00, 0x00, 0x00] = .ok (.extractDecode, []) ∧
  decode .command [0x07, 0x00, 0x00, 0x00] = .ok (.reserved67 7, []) ∧
  decode .command [0x09, 0x00, 0x00, 0x00] = .ok (.reserved8F 9, []) ∧
  decode .hdrSig [0x78, 0x56, 0x34, 0x12] = .ok (.hdrSig 0x12345678, []) ∧
  decode .hdrCount [0x04, 0x00, 0x16] = .ok (.hdrCount 4, [0x16]) ∧
  decode (.offsetEntry .start) [0x25, 0x00, 0x00, 0x01] = .ok (.offsetEntry .start 0x01000025, []) ∧
  decode .key [0xAA, 0xBB, 0xCC] = .ok (.key 0xAA 0xBB 0xCC, []) ∧
  decode .dsize [0x34, 0x12] = .ok (.dsize 0x1234, []) ∧
  decode .trun [0x04, 0x05] = .ok (.trun 1284, []) ∧
  decode .crun [0xC8, 0x64] = .ok (.crun 25800, []) ∧
  decode .rgb [0x0A, 0x14, 0x1E] = .ok (.rgb 0x0A 0x14 0x1E, []) ∧
  decode .rgb [0x0A, 0x14] = .error (.truncated .rgb)

/-- R65: bits [3:0] of the command word select the command; R64, R66: bits [31:4] have no effect. -/
def Obligations.OpcodeMapSelectsCommand : Prop :=
  ∀ (w : Word) (rest : List Byte), ∃ i : Instr, decode .command (leBytes 4 w.toNat ++ rest) = .ok (i, rest) ∧
    (w.toNat % 16 = 0 → i = .nop) ∧ (w.toNat % 16 = 1 → i = .load) ∧ (w.toNat % 16 = 2 → i = .unload) ∧
    (w.toNat % 16 = 3 → i = .extract) ∧ (w.toNat % 16 = 4 → i = .decode) ∧ (w.toNat % 16 = 5 → i = .extractDecode) ∧
    (w.toNat % 16 = 6 ∨ w.toNat % 16 = 7 → i = .reserved67 (BitVec.ofNat 4 w.toNat)) ∧
    (8 ≤ w.toNat % 16 → i = .reserved8F (BitVec.ofNat 4 w.toNat))

/-- Decoding the encoding of any well-formed instruction, in its slot and before any bytes, gives it back. -/
def Obligations.DecodeInvertsEncode : Prop :=
  ∀ (i : Instr), WellFormed i → ∀ rest : List Byte, decode i.slot (encode i ++ rest) = .ok (i, rest)

/-- R66: every byte sequence that is long enough is an instruction of its slot, and a shorter one is the only thing rejected.
What is read is well formed, and its encoding is what was read (but for a command's ignored bits, R64).
That a command is four bytes, in little-endian order, is the model's choice (log 10). -/
def Obligations.EncodeInvertsDecode : Prop :=
  ∀ (slot : Slot) (bs : List Byte),
    (bs.length < slot.length → decode slot bs = .error (.truncated slot)) ∧
    (slot.length ≤ bs.length → ∃ i : Instr, decode slot bs = .ok (i, bs.drop slot.length) ∧ WellFormed i ∧ i.slot = slot ∧
      (slot ≠ .command → encode i = bs.take slot.length) ∧
      (slot = .command → leNat (encode i) = leNat (bs.take slot.length) % 16))

/-! ### A step runs what it fetches -/

/-- The command word placed by `withFetchWord` is what the next step runs (log 8): NOP at its CMD write, any other in its
EXEC step, from the state its acceptance leaves (R74, R75). -/
def Obligations.FetchedCommandRuns : Prop :=
  ∀ (s : State) (nbits w : Nat) (i : Instr), decodeTableWord nbits w = some i →
    step (s.withFetchWord nbits w) = exec i { s.withFetchWord nbits w with events := s.events } ∧
    (i = .nop → { s.withFetchWord nbits w with events := s.events } = { s with busy := false, fsm := .idle }) ∧
    (i ≠ .nop → { s.withFetchWord nbits w with events := s.events } =
      { s with op := BitVec.ofNat 4 (w % 2 ^ nbits), done := false, err := .ok, nfReason := .none, busy := true, fsm := .exec })

/-- R60, R75: the engine's state selects the token kind, and the engine's turn runs the instruction that the bytes at the cursor
decode to; in EXEC it runs the command of FSM.OP. With nothing scheduled, or an engine turn scheduled, that is the step. -/
def Obligations.StepRunsDecodedInstruction : Prop :=
  (∀ (s : State) (slot : Slot) (bs rest : List Byte) (i : Instr), selectedSlot s = some slot →
    blkBytes s s.cursor.toNat slot.length = some bs → decode slot bs = .ok (i, rest) →
    (s.events = [] → step s = exec i s) ∧
    ∀ es, step { s with events := .engine :: es } = exec i { s with events := es }) ∧
  (∀ (s : State), s.fsm = .exec → s.op.toNat ≠ 0 →
    (s.events = [] → step s = exec (decodeOp s.op) s) ∧
    ∀ es, step { s with events := .engine :: es } = exec (decodeOp s.op) { s with events := es })

/-- R51: a step is the next event of the total order, of every kind, performed on the state with the later events left scheduled;
with none scheduled the engine goes on (R137). The schedule (log 1), the collapsed polls of WAIT (log 6) and that a reset keeps the
schedule and clears the response (log 7) are the model's. -/
def Obligations.StepPerformsNextEvent : Prop :=
  (∀ s : State, s.events = [] → step s = engineStep s) ∧
  (∀ (s : State) (es : List Event), step { s with events := .engine :: es } = engineStep { s with events := es }) ∧
  (∀ (s : State) (es : List Event), step { s with events := .reset :: es } =
    .next { State.resetWith s.amemSize with amem := s.amem, events := es, response := none }) ∧
  (∀ (s : State) (off : BitVec 13) (size : AccessSize) (es : List Event),
    step { s with events := .read off size :: es } = hostRead off size { s with events := es }) ∧
  (∀ (s : State) (off : BitVec 13) (size : AccessSize) (w : Word) (es : List Event),
    step { s with events := .write off size w :: es } = hostWrite off size w { s with events := es }) ∧
  (∀ (s : State) (a : Word) (es : List Event),
    step { s with events := .amemRead a :: es } = hostAmemRead a { s with events := es }) ∧
  (∀ (s : State) (a : Word) (b : Byte) (es : List Event),
    step { s with events := .amemWrite a b :: es } = hostAmemWrite a b { s with events := es }) ∧
  (∀ (s : State) (es : List Event), s.busy = true →
    step { s with events := .wait :: es } = engineStep { s with events := .wait :: es }) ∧
  (∀ (s : State) (es : List Event), s.busy = false → ∃ w : Word,
    hostRead 0x008 .word s = .next { s with response := some (.word w) } ∧
    step { s with events := .wait :: es } = .next { s with events := es, response := some (.word w) })

/-! ### The host's register writes -/

/-- R74: a host write to CMD. -/
def Obligations.CmdWriteAccepts : Prop :=
  ∀ (s : State) (w : Word),
    (s.busy = true → hostWrite 0x000 .word w s = .next { s with hostViol := true }) ∧
    (s.busy = false → w.extractLsb' 0 4 = 0 → hostWrite 0x000 .word w s = .next s) ∧
    (s.busy = false → w.extractLsb' 0 4 ≠ 0 → hostWrite 0x000 .word w s =
      .next { s with op := w.extractLsb' 0 4, done := false, err := .ok, nfReason := .none, busy := true, fsm := .exec })

/-- R71: a write to ARCHIVE_LEN, SPRITE_ID, BLK_START or BLK_LEN stores all 32 bits unless it is refused. -/
def Obligations.OperandWritesAreGuarded : Prop :=
  ∀ (s : State) (w : Word),
    hostWrite 0x00C .word w s =
      .next (if s.busy = true ∨ s.loaded = true then { s with hostViol := true } else { s with archiveLen := w }) ∧
    hostWrite 0x018 .word w s = .next (if s.busy = true then { s with hostViol := true } else { s with spriteId := w }) ∧
    hostWrite 0x01C .word w s = .next (if s.busy = true then { s with hostViol := true } else { s with blkStart := w }) ∧
    hostWrite 0x020 .word w s = .next (if s.busy = true then { s with hostViol := true } else { s with blkLen := w })

/-- R72: a STATUS write clears DONE by bit 1 and HOST_VIOL by bit 3, at any time, and does nothing else. -/
def Obligations.StatusWriteClears : Prop :=
  ∀ (s : State) (w : Word), hostWrite 0x008 .word w s =
    .next { s with
      done := if w.getLsbD 1 = true then false else s.done
      hostViol := if w.getLsbD 3 = true then false else s.hostViol }

/-- R73: a CTRL write takes bit 0, at any time. -/
def Obligations.CtrlWriteSetsIrqEn : Prop :=
  ∀ (s : State) (w : Word), hostWrite 0x004 .word w s = .next { s with irqEn := w.getLsbD 0 }

/-- R70: a write to a read-only register, a reserved offset or the GRID window is ignored and sets no flag;
a sub-word or misaligned access is refused. -/
def Obligations.OtherWritesIgnored : Prop :=
  (∀ (s : State) (off : BitVec 13) (w : Word), off.toNat % 4 = 0 →
    off.toNat = 0x010 ∨ off.toNat = 0x014 ∨ 0x024 ≤ off.toNat → hostWrite off .word w s = .next s) ∧
  (∀ (s : State) (off : BitVec 13) (size : AccessSize) (w : Word), size ≠ .word ∨ off.toNat % 4 ≠ 0 →
    hostWrite off size w s = .refused .busAccess ∧ hostRead off size s = .refused .busAccess)

/-- R119: HOST_VIOL is sticky; only a host write of STATUS with bit 3 and reset clear it. -/
def Obligations.HostViolIsSticky : Prop :=
  ∀ (s t : State), step s = .next t → s.hostViol = true → t.hostViol = false →
    ∃ es, (∃ w : Word, w.getLsbD 3 = true ∧ s.events = .write 0x008 .word w :: es) ∨ s.events = .reset :: es

/-! ### The host's reads -/

/-- R17, R70: what a read of each register returns. A read has no side effect (R48). -/
def Obligations.WindowReadsRegisters : Prop :=
  ∀ (s : State),
    hostRead 0x000 .word s = .next { s with response := some (.word 0) } ∧
    hostRead 0x004 .word s = .next { s with response := some (.word (BitVec.ofNat 32 s.irqEn.toNat)) } ∧
    hostRead 0x00C .word s = .next { s with response := some (.word s.archiveLen) } ∧
    hostRead 0x010 .word s = .next { s with response := some (.word s.signature) } ∧
    hostRead 0x014 .word s = .next { s with response := some (.word (BitVec.ofNat 32 s.spriteCount.toNat)) } ∧
    hostRead 0x018 .word s = .next { s with response := some (.word s.spriteId) } ∧
    hostRead 0x01C .word s = .next { s with response := some (.word s.blkStart) } ∧
    hostRead 0x020 .word s = .next { s with response := some (.word s.blkLen) } ∧
    hostRead 0x024 .word s = .next { s with response := some (.word s.cursor) } ∧
    hostRead 0x028 .word s = .next { s with response := some (.word (BitVec.ofNat 32 s.run.toNat)) } ∧
    hostRead 0x02C .word s = .next { s with response := some (.word (BitVec.ofNat 32 s.pixcount.toNat)) } ∧
    (∀ off : BitVec 13, off.toNat % 4 = 0 → 0x038 ≤ off.toNat → off.toNat < 0x1000 →
      hostRead off .word s = .next { s with response := some (.word 0) })

/-- R20, R31, R32: the fields of STATUS, ROWCOL and FSM stand at their bits, and the reserved bits read 0;
and the code of every value of ERR (R21), NF_REASON (R22) and STATE (R33). -/
def Obligations.StatusWordsHoldFields : Prop :=
  (Err.ok.code = 0 ∧ Err.format.code = 1 ∧ Err.notFound.code = 2 ∧ Err.notLoaded.code = 3 ∧ Err.badRange.code = 4 ∧
    Err.badLen.code = 5 ∧ Err.badCmd.code = 6) ∧
  (NfReason.none.code = 0 ∧ NfReason.idRange.code = 1 ∧ NfReason.zeroOffset.code = 2 ∧ NfReason.emptyRange.code = 3 ∧
    NfReason.pastEnd.code = 4) ∧
  (FsmState.idle.code = 0 ∧ FsmState.exec.code = 1 ∧ FsmState.fetchT.code = 2 ∧ FsmState.emitT.code = 3 ∧
    FsmState.fetchC.code = 4 ∧ FsmState.emitC.code = 5 ∧ FsmState.pad.code = 6) ∧
  ∀ (s : State), ∃ st rc fs : Word,
    hostRead 0x008 .word s = .next { s with response := some (.word st) } ∧
    st.getLsbD 0 = s.busy ∧ st.getLsbD 1 = s.done ∧ st.getLsbD 2 = s.loaded ∧ st.getLsbD 3 = s.hostViol ∧
    (st.extractLsb' 4 4).toNat = s.err.code ∧ (st.extractLsb' 8 4).toNat = s.nfReason.code ∧
    st.getLsbD 12 = s.shortTail ∧ st.getLsbD 13 = s.runClipped ∧ st.extractLsb' 14 18 = 0 ∧
    hostRead 0x030 .word s = .next { s with response := some (.word rc) } ∧
    rc.extractLsb' 0 5 = s.col ∧ rc.extractLsb' 5 3 = 0 ∧ rc.extractLsb' 8 5 = s.row ∧ rc.extractLsb' 13 3 = 0 ∧
    rc.getLsbD 16 = s.full ∧ rc.extractLsb' 17 15 = 0 ∧
    hostRead 0x034 .word s = .next { s with response := some (.word fs) } ∧
    (fs.extractLsb' 0 3).toNat = s.fsm.code ∧ fs.getLsbD 3 = false ∧ fs.extractLsb' 4 4 = s.op ∧ fs.extractLsb' 8 24 = 0

/-- R36, R70, R132: a read of GRID word k returns the word, and faults while the word has no value. -/
def Obligations.GridWindowReads : Prop :=
  ∀ (s : State) (off : BitVec 13) (k : Nat), k < 1024 → off.toNat = 0x1000 + 4 * k →
    (∀ v, gridWord s k = some v → hostRead off .word s = .next { s with response := some (.word v) }) ∧
    (gridWord s k = none → hostRead off .word s = .fault .gridUnwritten)

/-- R48: no read has a side effect. -/
def Obligations.ReadsHaveNoSideEffect : Prop :=
  ∀ (s t : State) (off : BitVec 13) (size : AccessSize) (a : Word),
    hostRead off size s = .next t ∨ hostAmemRead a s = .next t → t = { s with response := t.response }

/-- R124: IRQ = CTRL.IRQ_EN AND STATUS.DONE; writing IRQ_EN = 0 masks it and leaves DONE; a STATUS write with bit 1 and the
acceptance of a command clear it. -/
def Obligations.InterruptFollowsDone : Prop :=
  ∀ (s : State),
    (irq s = true ↔ s.irqEn = true ∧ s.done = true) ∧
    (∀ w : Word, w.getLsbD 0 = false → ∃ t, hostWrite 0x004 .word w s = .next t ∧ irq t = false ∧ t.done = s.done) ∧
    (∀ w : Word, w.getLsbD 1 = true → ∃ t, hostWrite 0x008 .word w s = .next t ∧ irq t = false ∧ t.irqEn = s.irqEn) ∧
    (∀ w : Word, s.busy = false → w.extractLsb' 0 4 ≠ 0 → ∃ t, hostWrite 0x000 .word w s = .next t ∧ irq t = false ∧
      t.irqEn = s.irqEn)

/-! ### Reset and idle -/

/-- R131: what the reset input leaves, in any state: every register reads 0, IDLE, no command, IRQ = 0 and AMEM unchanged.
R132: after it no GRID word has a value and a read of one faults, and the first decode to finish with ERR = OK gives every word one. -/
def Obligations.ResetInputClears : Prop :=
  (∀ (s : State) (es : List Event), ∃ t, step { s with events := .reset :: es } = .next t ∧
    t = { State.resetWith s.amemSize with amem := s.amem, events := t.events, response := t.response } ∧
    t.fsm = .idle ∧ t.op = 0 ∧ t.busy = false ∧ t.done = false ∧ t.loaded = false ∧ t.hostViol = false ∧ irq t = false ∧
    t.amem = s.amem ∧
    (∀ off : BitVec 13, off.toNat % 4 = 0 → off.toNat < 0x1000 →
      hostRead off .word t = .next { t with response := some (.word 0) }) ∧
    (∀ k, gridWord t k = none) ∧
    (∀ off : BitVec 13, off.toNat % 4 = 0 → 0x1000 ≤ off.toNat → hostRead off .word t = .fault .gridUnwritten)) ∧
  (∀ u v : State, Inv u → u.fsm.decoding = true → engineStep u = .next v → v.fsm = .idle →
    v.err = .ok ∧ ∀ k, k < 1024 → ∃ w, gridWord v k = some w)

/-- R77: in IDLE the engine takes no step, and no register changes except by a host write (or reset). -/
def Obligations.IdleEngineTakesNoStep : Prop :=
  (∀ s : State, s.fsm = .idle → engineStep s = .next s) ∧
  (∀ s t : State, s.fsm = .idle → step s = .next t →
    (∀ off size w es, s.events ≠ .write off size w :: es) → (∀ es, s.events ≠ .reset :: es) →
    t = { s with events := t.events, response := t.response, amem := t.amem })

/-! ### The commands -/

/-- R78: NOP has no effect while BUSY = 0; while BUSY = 1 it is a dropped write. -/
def Obligations.NopHasNoEffect : Prop :=
  ∀ (s : State) (w : Word), w.extractLsb' 0 4 = 0 →
    (s.busy = false → exec .nop s = .next s ∧ hostWrite 0x000 .word w s = .next s) ∧
    (s.busy = true → exec .nop s = .next { s with hostViol := true } ∧
      hostWrite 0x000 .word w s = .next { s with hostViol := true })

/-- R81: LOAD, its four outcomes in the order of the checks. -/
def Obligations.LoadParsesHeader : Prop :=
  ∀ (s : State),
    (s.amemSize.toNat < s.archiveLen.toNat → exec .load s = .next { s with
      loaded := false, signature := 0, spriteCount := 0, err := .badLen, busy := false, done := true, fsm := .idle }) ∧
    (s.archiveLen.toNat ≤ s.amemSize.toNat → s.archiveLen.toNat < 6 → exec .load s = .next { s with
      loaded := false, signature := 0, spriteCount := 0, err := .format, busy := false, done := true, fsm := .idle }) ∧
    (s.archiveLen.toNat ≤ s.amemSize.toNat → 6 ≤ s.archiveLen.toNat → ∃ (sig : Word) (n : Half),
      le32 s 0 = some sig.toNat ∧ le16 s 4 = some n.toNat ∧
      (s.archiveLen.toNat < 6 + 4 * n.toNat → exec .load s = .next { s with
        loaded := false, signature := 0, spriteCount := 0, err := .format, busy := false, done := true, fsm := .idle }) ∧
      (6 + 4 * n.toNat ≤ s.archiveLen.toNat → exec .load s = .next { s with
        loaded := true, signature := sig, spriteCount := n, err := .ok, busy := false, done := true, fsm := .idle }))

/-- HDR_SIG and HDR_COUNT (R56, R81), and that LOAD past its length checks is the two in order. How a header token runs by itself is
the model's reading of R81 (log 9). -/
def Obligations.HeaderTokensMakeUpLoad : Prop :=
  (∀ (s : State) (sig : Word), exec (.hdrSig sig) s = .next { s with signature := sig }) ∧
  (∀ (s : State) (n : Half), 6 + 4 * n.toNat ≤ s.archiveLen.toNat → exec (.hdrCount n) s = .next { s with
    spriteCount := n, loaded := true, err := .ok, busy := false, done := true, fsm := .idle }) ∧
  (∀ (s : State) (n : Half), s.archiveLen.toNat < 6 + 4 * n.toNat → exec (.hdrCount n) s = .next { s with
    loaded := false, signature := 0, spriteCount := 0, err := .format, busy := false, done := true, fsm := .idle }) ∧
  (∀ (s t : State) (bs cs rest rest' : List Byte) (i j : Instr), 6 ≤ s.archiveLen.toNat →
    s.archiveLen.toNat ≤ s.amemSize.toNat → amemBytes s 0 4 = some bs → decode .hdrSig bs = .ok (i, rest) →
    amemBytes s 4 2 = some cs → decode .hdrCount cs = .ok (j, rest') → exec i s = .next t → exec .load s = exec j t)

/-- R79: UNLOAD, from any state; afterwards the host may change ARCHIVE_LEN and AMEM again. -/
def Obligations.UnloadDiscardsArchive : Prop :=
  ∀ (s : State), ∃ t, exec .unload s = .next t ∧
    t = { s with
      loaded := false, signature := 0, spriteCount := 0, err := .ok, busy := false, done := true, fsm := .idle } ∧
    (∀ w : Word, hostWrite 0x00C .word w t = .next { t with archiveLen := w }) ∧
    (∀ (a : Word) (b : Byte), a.toNat < t.amemSize.toNat → ∃ u, hostAmemWrite a b t = .next u ∧
      amemByte u a.toNat = some b)

/-- R80: the reserved opcodes finish with BADCMD and change nothing else. -/
def Obligations.ReservedOpcodesFinishBadCmd : Prop :=
  (∀ (s : State) (op : BitVec 4), 6 ≤ op.toNat → exec (decodeOp op) s = .next { s with
    err := .badCmd, busy := false, done := true, fsm := .idle }) ∧
  (∀ (s : State) (op : BitVec 4),
    exec (.reserved67 op) s = .next { s with err := .badCmd, busy := false, done := true, fsm := .idle } ∧
    exec (.reserved8F op) s = .next { s with err := .badCmd, busy := false, done := true, fsm := .idle })

/-- R88: EXTRACT in terms of `resolve`. -/
def Obligations.ExtractReturnsRange : Prop :=
  ∀ (s : State),
    (s.loaded = false → exec .extract s = .next { s with err := .notLoaded, busy := false, done := true, fsm := .idle }) ∧
    (s.loaded = true → ∀ k, resolve s = some (.notFound k) → exec .extract s = .next { s with
      nfReason := k, err := .notFound, busy := false, done := true, fsm := .idle }) ∧
    (s.loaded = true → ∀ a n, resolve s = some (.found a n) → exec .extract s = .next { s with
      blkStart := a, blkLen := n, err := .ok, busy := false, done := true, fsm := .idle })

/-- R87: the range function, each outcome from the stored offsets; every read is inside the table; and the bounds of a Found range. -/
def Obligations.ResolveComputesRange : Prop :=
  ∀ (s : State), Inv s → s.loaded = true →
    (∃ res, resolve s = some res) ∧
    (s.spriteId.toNat < 1 ∨ s.spriteCount.toNat < s.spriteId.toNat → resolve s = some (.notFound .idRange)) ∧
    (1 ≤ s.spriteId.toNat → s.spriteId.toNat ≤ s.spriteCount.toNat → ∃ start stop : Nat,
      6 + 4 * (s.spriteId.toNat - 1) + 4 ≤ 6 + 4 * s.spriteCount.toNat ∧
      6 + 4 * s.spriteCount.toNat ≤ s.archiveLen.toNat ∧
      le32 s (6 + 4 * (s.spriteId.toNat - 1)) = some start ∧
      (s.spriteId.toNat < s.spriteCount.toNat → ∃ next, le32 s (6 + 4 * s.spriteId.toNat) = some next ∧
        stop = if next = 0 then s.archiveLen.toNat else next) ∧
      (s.spriteId.toNat = s.spriteCount.toNat → stop = s.archiveLen.toNat) ∧
      (start = 0 → resolve s = some (.notFound .zeroOffset)) ∧
      (start ≠ 0 → stop ≤ start → resolve s = some (.notFound .emptyRange)) ∧
      (start ≠ 0 → start < stop → s.archiveLen.toNat < stop → resolve s = some (.notFound .pastEnd)) ∧
      (start ≠ 0 → start < stop → stop ≤ s.archiveLen.toNat → ∃ a n : Word, resolve s = some (.found a n) ∧
        a.toNat = start ∧ n.toNat = stop - start ∧ 1 ≤ n.toNat ∧ n.toNat ≤ s.archiveLen.toNat - 1))

/-- R89: the corner cases of `resolve`. -/
def Obligations.ResolveCornerCases : Prop :=
  ∀ (s : State), Inv s → s.loaded = true →
    (s.spriteId = 0 → resolve s = some (.notFound .idRange)) ∧
    (s.spriteCount.toNat < s.spriteId.toNat → resolve s = some (.notFound .idRange)) ∧
    (s.spriteCount = 0 → resolve s = some (.notFound .idRange)) ∧
    (1 ≤ s.spriteId.toNat → s.spriteId.toNat ≤ s.spriteCount.toNat → ∀ start : Nat,
      offEntry s s.spriteId.toNat = some start →
      (start = 0 → resolve s = some (.notFound .zeroOffset)) ∧
      (s.spriteId.toNat < s.spriteCount.toNat → offEntry s (s.spriteId.toNat + 1) = some 0 →
        start ≠ 0 → start < s.archiveLen.toNat →
        resolve s = some (.found (BitVec.ofNat 32 start) (BitVec.ofNat 32 (s.archiveLen.toNat - start)))) ∧
      (s.spriteId.toNat = s.spriteCount.toNat → start ≠ 0 → start < s.archiveLen.toNat →
        resolve s = some (.found (BitVec.ofNat 32 start) (BitVec.ofNat 32 (s.archiveLen.toNat - start)))) ∧
      (s.spriteId.toNat < s.spriteCount.toNat → start ≠ 0 → offEntry s (s.spriteId.toNat + 1) = some start →
        resolve s = some (.notFound .emptyRange)) ∧
      (∀ next, s.spriteId.toNat < s.spriteCount.toNat → offEntry s (s.spriteId.toNat + 1) = some next → next < start → next ≠ 0 →
        resolve s = some (.notFound .emptyRange)) ∧
      (s.spriteId.toNat = s.spriteCount.toNat → s.archiveLen.toNat ≤ start → resolve s = some (.notFound .emptyRange)) ∧
      (∀ next, s.spriteId.toNat < s.spriteCount.toNat → offEntry s (s.spriteId.toNat + 1) = some next →
        s.archiveLen.toNat < next → start < next → start ≠ 0 → resolve s = some (.notFound .pastEnd)) ∧
      (∀ next, s.spriteId.toNat < s.spriteCount.toNat → offEntry s (s.spriteId.toNat + 1) = some next →
        1 ≤ start → start < 6 + 4 * s.spriteCount.toNat → start < next → next ≤ s.archiveLen.toNat →
        resolve s = some (.found (BitVec.ofNat 32 start) (BitVec.ofNat 32 (next - start)))))

/-- OFFSET_ENTRY in both its roles (R57, R87, R90): an entry of the loaded table, read for SPRITE_ID, completes EXTRACT or
EXTRACT_DECODE as `resolve` says. That a token so completes the command by itself is the model's reading (log 9), and so is that an
end entry for SPRITE_ID = N answers as well (log 15). -/
def Obligations.OffsetEntryRoles : Prop :=
  ∀ (s : State), Inv s → s.loaded = true → 1 ≤ s.spriteId.toNat → s.spriteId.toNat ≤ s.spriteCount.toNat →
    (∀ off : Word, offEntry s s.spriteId.toNat = some off.toNat →
      (s.op = 3 → exec (.offsetEntry .start off) s = exec .extract s) ∧
      (s.op = 5 → exec (.offsetEntry .start off) s = exec .extractDecode s)) ∧
    (∀ off : Word, s.spriteId.toNat < s.spriteCount.toNat → offEntry s (s.spriteId.toNat + 1) = some off.toNat →
      (s.op = 3 → exec (.offsetEntry .stop off) s = exec .extract s) ∧
      (s.op = 5 → exec (.offsetEntry .stop off) s = exec .extractDecode s)) ∧
    (∀ (role : EntryRole) (off : Word), ∃ t, exec (.offsetEntry role off) s = .next t) ∧
    exec (.offsetEntry .start 0) s = .next { s with
      nfReason := .zeroOffset, err := .notFound, busy := false, done := true, fsm := .idle }

/-- R95, R98: DECODE's range check; when it passes, start_decode, and when it fails, BADRANGE with nothing else changed.
LOADED plays no part. -/
def Obligations.DecodeChecksRangeAndStarts : Prop :=
  ∀ (s : State),
    (s.archiveLen.toNat ≤ s.amemSize.toNat → s.blkStart.toNat + s.blkLen.toNat ≤ s.archiveLen.toNat →
      exec .decode s = .next { s with
        cursor := if s.blkLen.toNat ≤ 5 then 3 else 5, run := 0, pixcount := 0, row := 0, col := 0, full := false,
        shortTail := false, runClipped := false, fsm := .fetchT }) ∧
    (s.amemSize.toNat < s.archiveLen.toNat ∨ s.archiveLen.toNat < s.blkStart.toNat + s.blkLen.toNat →
      exec .decode s = .next { s with err := .badRange, busy := false, done := true, fsm := .idle })

/-- R97: EXTRACT_DECODE in terms of `resolve`. It has no BADRANGE, because a Found range is inside the archive. -/
def Obligations.ExtractDecodeStartsBlock : Prop :=
  ∀ (s : State),
    (s.loaded = false →
      exec .extractDecode s = .next { s with err := .notLoaded, busy := false, done := true, fsm := .idle }) ∧
    (s.loaded = true → ∀ k, resolve s = some (.notFound k) → exec .extractDecode s = .next { s with
      nfReason := k, err := .notFound, busy := false, done := true, fsm := .idle }) ∧
    (s.loaded = true → ∀ a n, resolve s = some (.found a n) → exec .extractDecode s = .next { s with
      blkStart := a, blkLen := n, cursor := if n.toNat ≤ 5 then 3 else 5, run := 0, pixcount := 0, row := 0, col := 0,
      full := false, shortTail := false, runClipped := false, fsm := .fetchT }) ∧
    (Inv s → s.loaded = true → ∀ a n, resolve s = some (.found a n) →
      a.toNat + n.toNat ≤ s.archiveLen.toNat ∧ s.archiveLen.toNat ≤ s.amemSize.toNat) ∧
    (∀ t, exec .extractDecode s = .next t → t.err = .badRange → s.err = .badRange)

/-- KEY and DSIZE are skipped whatever their bytes (R58, R98, I2, I3), and start_decode's cursor is the one they leave:
3 after KEY alone, 5 after DSIZE, which is present exactly when BLK_LEN > 5. The token form is the model's (log 9). -/
def Obligations.BlockHeaderTokensAreSkipped : Prop :=
  ∀ (s : State) (k0 k1 k2 : Byte) (d : Half),
    exec (.key k0 k1 k2) s = .next { s with cursor := 3 } ∧
    exec (.dsize d) s = .next { s with cursor := 5 } ∧
    (∀ t u v, RangeOk s → exec .decode s = .next t → exec (.key k0 k1 k2) s = .next u → exec (.dsize d) u = .next v →
      (s.blkLen.toNat ≤ 5 → t.cursor = u.cursor) ∧ (5 < s.blkLen.toNat → t.cursor = v.cursor))

/-- TRUN, CRUN and RGB (R99, R101, R102): what reading the token does, and that it changes nothing else.
That the meaning does not test the control state is the model's (log 9, log 11): the engine's state selects the token (R60). -/
def Obligations.StreamTokensComplete : Prop :=
  (∀ (s : State) (n : Half),
    exec (.trun n) s = .next { s with run := n, cursor := s.cursor + 2, fsm := .emitT } ∧
    exec (.crun n) s = .next { s with run := n, cursor := s.cursor + 2, fsm := .emitC }) ∧
  (∀ (s : State) (r g b : Byte), ∃ t, exec (.rgb r g b) s = .next t ∧
    t.cursor = s.cursor + 3 ∧ t.run = s.run - 1 ∧ t.pixcount = s.pixcount + 1 ∧
    (∀ k, gridWord t k =
      if k = 32 * s.row.toNat + s.col.toNat then
        some (BitVec.ofNat 32 (0xFF000000 + 65536 * b.toNat + 256 * g.toNat + r.toNat))
      else gridWord s k) ∧
    t.row = (advance s).row ∧ t.col = (advance s).col ∧ t.full = (advance s).full ∧
    t = { s with
      cursor := t.cursor, run := t.run, pixcount := t.pixcount, row := t.row, col := t.col, full := t.full, grid := t.grid })

/-! ### The decoder's steps -/

/-- R99: the FETCH_T step. -/
def Obligations.FetchTStepReadsT : Prop :=
  ∀ (s : State), s.fsm = .fetchT →
    (RangeOk s → s.cursor.toNat + 2 ≤ s.blkLen.toNat → s.pixcount.toNat < 1024 →
      engineStep s = .next { s with
        run := BitVec.ofNat 16
          ((blockByte s s.cursor.toNat).toNat + 256 * (blockByte s (s.cursor.toNat + 1)).toNat)
        cursor := BitVec.ofNat 32 (s.cursor.toNat + 2)
        fsm := .emitT }) ∧
    (s.blkLen.toNat < s.cursor.toNat + 2 ∨ 1024 ≤ s.pixcount.toNat → engineStep s = .next { s with fsm := .pad })

/-- R100: the EMIT_T step. -/
def Obligations.EmitTStepEmitsTransparent : Prop :=
  ∀ (s : State), s.fsm = .emitT →
    (s.run = 0 → engineStep s = .next { s with fsm := .fetchC }) ∧
    (s.run ≠ 0 → s.pixcount = 1024 → engineStep s = .next { s with runClipped := true, run := 0, fsm := .fetchC }) ∧
    (s.run ≠ 0 → s.pixcount ≠ 1024 → ∃ t, engineStep s = .next t ∧
      (∀ k, gridWord t k = if k = 32 * s.row.toNat + s.col.toNat then some 0 else gridWord s k) ∧
      t.run.toNat = s.run.toNat - 1 ∧ t.pixcount = s.pixcount + 1 ∧
      t.row = (advance s).row ∧ t.col = (advance s).col ∧ t.full = (advance s).full ∧
      t = { s with
        run := t.run, pixcount := t.pixcount, row := t.row, col := t.col, full := t.full, grid := t.grid })

/-- R101: the FETCH_C step, which does not test the budget. -/
def Obligations.FetchCStepReadsC : Prop :=
  ∀ (s : State), s.fsm = .fetchC →
    (RangeOk s → s.cursor.toNat + 2 ≤ s.blkLen.toNat →
      engineStep s = .next { s with
        run := BitVec.ofNat 16
          ((blockByte s s.cursor.toNat).toNat + 256 * (blockByte s (s.cursor.toNat + 1)).toNat)
        cursor := BitVec.ofNat 32 (s.cursor.toNat + 2)
        fsm := .emitC }) ∧
    (s.blkLen.toNat < s.cursor.toNat + 2 → engineStep s = .next { s with fsm := .pad })

/-- R102: the EMIT_C step. -/
def Obligations.EmitCStepEmitsColored : Prop :=
  ∀ (s : State), s.fsm = .emitC →
    (s.run = 0 → engineStep s = .next { s with fsm := .fetchT }) ∧
    (s.run ≠ 0 → s.pixcount = 1024 → engineStep s = .next { s with runClipped := true, run := 0, fsm := .fetchT }) ∧
    (s.run ≠ 0 → s.pixcount ≠ 1024 → s.blkLen.toNat < s.cursor.toNat + 3 →
      engineStep s = .next { s with shortTail := true, run := 0, fsm := .fetchT }) ∧
    (s.run ≠ 0 → s.pixcount ≠ 1024 → s.cursor.toNat + 3 ≤ s.blkLen.toNat → RangeOk s → ∃ t, engineStep s = .next t ∧
      (∀ k, gridWord t k =
        if k = 32 * s.row.toNat + s.col.toNat then
          some (px (blockByte s s.cursor.toNat) (blockByte s (s.cursor.toNat + 1)) (blockByte s (s.cursor.toNat + 2)) 255)
        else gridWord s k) ∧
      t.cursor.toNat = s.cursor.toNat + 3 ∧ t.run.toNat = s.run.toNat - 1 ∧ t.pixcount = s.pixcount + 1 ∧
      t.row = (advance s).row ∧ t.col = (advance s).col ∧ t.full = (advance s).full ∧
      t = { s with
        cursor := t.cursor, run := t.run, pixcount := t.pixcount, row := t.row, col := t.col, full := t.full,
        grid := t.grid })

/-- R113: the PAD step. -/
def Obligations.PadStepPadsOrFinishes : Prop :=
  ∀ (s : State), s.fsm = .pad →
    (s.pixcount.toNat < 1024 → ∃ t, engineStep s = .next t ∧
      (∀ k, gridWord t k = if k = 32 * s.row.toNat + s.col.toNat then some 0 else gridWord s k) ∧
      t.pixcount = s.pixcount + 1 ∧
      t.row = (advance s).row ∧ t.col = (advance s).col ∧ t.full = (advance s).full ∧
      t = { s with pixcount := t.pixcount, row := t.row, col := t.col, full := t.full, grid := t.grid }) ∧
    (1024 ≤ s.pixcount.toNat →
      engineStep s = .next { s with err := .ok, busy := false, done := true, fsm := .idle })

/-! ### The pixel writer -/

/-- R107: the packing of a pixel word. -/
def Obligations.PixelWordPacksChannels : Prop :=
  ∀ (r g b a : Byte),
    (px r g b a).toNat = r.toNat + 256 * g.toNat + 65536 * b.toNat + 16777216 * a.toNat ∧
    (px r g b a).extractLsb' 0 8 = r ∧ (px r g b a).extractLsb' 8 8 = g ∧
    (px r g b a).extractLsb' 16 8 = b ∧ (px r g b a).extractLsb' 24 8 = a ∧
    leBytes 4 (px r g b a).toNat = [r, g, b, a]

/-- R111: one advance, and the position after n pixels from start_decode. -/
def Obligations.AdvanceWalksRowMajor : Prop :=
  (∀ (s : State), ∃ t, advance s = t ∧ t.pixcount = s.pixcount + 1 ∧
    (s.col ≠ 31 → t.col = s.col + 1 ∧ t.row = s.row ∧ t.full = s.full) ∧
    (s.col = 31 → s.row ≠ 31 → t.col = 0 ∧ t.row = s.row + 1 ∧ t.full = s.full) ∧
    (s.col = 31 → s.row = 31 → t.col = 0 ∧ t.row = 0 ∧ t.full = true) ∧
    t = { s with pixcount := t.pixcount, row := t.row, col := t.col, full := t.full }) ∧
  (∀ (s : State) (n : Nat), n ≤ 1024 →
    (advance^[n] (startDecode s)).pixcount.toNat = n ∧
    ((advance^[n] (startDecode s)).full = true ↔ n = 1024) ∧
    (n < 1024 → (advance^[n] (startDecode s)).row.toNat = n / 32 ∧ (advance^[n] (startDecode s)).col.toNat = n % 32))

/-- R108: every GRID word an engine step changes becomes the transparent word or an opaque pixel. -/
def Obligations.EngineWritesTwoPixelKinds : Prop :=
  ∀ (s t : State), engineStep s = .next t → ∀ k,
    gridWord t k = gridWord s k ∨ gridWord t k = some 0 ∨
    ∃ r g b : Byte, gridWord t k = some (BitVec.ofNat 32 (0xFF000000 + 65536 * b.toNat + 256 * g.toNat + r.toNat))

/-- R114: while a decode runs, a step writes no GRID word, or the word PIXCOUNT and no other, and PIXCOUNT goes up by 1. -/
def Obligations.GridWrittenOnceInOrder : Prop :=
  ∀ (s t : State), Inv s → s.fsm.decoding = true → engineStep s = .next t →
    (t.grid = s.grid ∧ t.pixcount = s.pixcount) ∨
    (s.pixcount.toNat < 1024 ∧ t.pixcount.toNat = s.pixcount.toNat + 1 ∧
      (∃ v, gridWord t s.pixcount.toNat = some v) ∧
      ∀ k, k ≠ s.pixcount.toNat → gridWord t k = gridWord s k)

/-! ### Memory -/

/-- R42: multi-byte reads are little-endian sums of the bytes. -/
def Obligations.MemReadIsLittleEndian : Prop :=
  ∀ (s : State) (a n : Nat), a + n ≤ s.amemSize.toNat →
    memRead s a n = some (∑ i ∈ Finset.range n, (amemValue s (a + i)).toNat * 256 ^ i)

/-- R53: the engine never writes AMEM; a host AMEM write is no move in breach of H-1 or H-2, and otherwise changes that byte alone. -/
def Obligations.AmemWritesKeepDuties : Prop :=
  (∀ s t : State, engineStep s = .next t → t.amem = s.amem) ∧
  (∀ (s : State) (a : Word) (b : Byte), a.toNat < s.amemSize.toNat →
    (s.busy = true → hostAmemWrite a b s = .refused .amemDuty) ∧
    (s.loaded = true → a.toNat < s.archiveLen.toNat → hostAmemWrite a b s = .refused .amemDuty) ∧
    (s.busy = false → s.loaded = false ∨ s.archiveLen.toNat ≤ a.toNat → ∃ t, hostAmemWrite a b s = .next t ∧
      (∀ x, amemByte t x = if x = a.toNat then some b else amemByte s x) ∧ t = { s with amem := t.amem }))

/-- R86: after a successful LOAD the offset table has SPRITE_COUNT + 1 entries, entry 0 is 0, and every other entry is read inside
the archive. -/
def Obligations.OffsetTableAfterLoad : Prop :=
  ∀ (s t : State), exec .load s = .next t → t.err = .ok →
    (offsetTable t).length = t.spriteCount.toNat + 1 ∧ (offsetTable t)[0]? = some (some 0) ∧
    6 + 4 * t.spriteCount.toNat ≤ t.archiveLen.toNat ∧
    ∀ i, 1 ≤ i → i ≤ t.spriteCount.toNat →
      ∃ v, (offsetTable t)[i]? = some (some v) ∧ le32 t (6 + 4 * (i - 1)) = some v

/-- R85: a LOAD while LOADED = 1 succeeds again with the same SIGNATURE and SPRITE_COUNT. -/
def Obligations.RepeatedLoadSucceeds : Prop :=
  ∀ (s : State), Inv s → s.loaded = true →
    exec .load s = .next { s with err := .ok, busy := false, done := true, fsm := .idle }

/-! ### Whole-machine rules -/

/-- R14, R23, R38, R53: what no engine step changes, and which flags only some steps change. -/
def Obligations.EngineFrame : Prop :=
  ∀ (s t : State), engineStep s = .next t →
    t.irqEn = s.irqEn ∧ t.hostViol = s.hostViol ∧ t.archiveLen = s.archiveLen ∧ t.spriteId = s.spriteId ∧ t.op = s.op ∧
    t.amemSize = s.amemSize ∧ t.amem = s.amem ∧ t.events = s.events ∧ t.response = s.response ∧
    (t.loaded ≠ s.loaded ∨ t.signature ≠ s.signature ∨ t.spriteCount ≠ s.spriteCount →
      s.fsm = .exec ∧ (s.op = 1 ∨ s.op = 2)) ∧
    (t.blkStart ≠ s.blkStart ∨ t.blkLen ≠ s.blkLen → s.fsm = .exec ∧ (s.op = 3 ∨ s.op = 5)) ∧
    (t.nfReason ≠ s.nfReason → s.fsm = .exec ∧ (s.op = 3 ∨ s.op = 5) ∧ t.err = .notFound) ∧
    (t.cursor ≠ s.cursor ∨ t.run ≠ s.run ∨ t.pixcount ≠ s.pixcount ∨ t.row ≠ s.row ∨ t.col ≠ s.col ∨ t.full ≠ s.full ∨
      t.shortTail ≠ s.shortTail ∨ t.runClipped ≠ s.runClipped →
      s.fsm.decoding = true ∨ (s.fsm = .exec ∧ (s.op = 4 ∨ s.op = 5))) ∧
    (t.grid ≠ s.grid → s.fsm = .emitT ∨ s.fsm = .emitC ∨ s.fsm = .pad) ∧
    (t.busy ≠ s.busy ∨ t.done ≠ s.done ∨ t.err ≠ s.err → t.fsm = .idle ∧ t.busy = false ∧ t.done = true)

/-- R121: the EXEC step that detects an error changes only what R121 lists. The premise on ERR is what acceptance leaves (R74). -/
def Obligations.ErrorsArePrecise : Prop :=
  ∀ (s t : State), s.err = .ok → s.op.toNat ≠ 0 → exec (decodeOp s.op) s = .next t → t.err ≠ .ok →
    t = { s with
      err := t.err, nfReason := t.nfReason, loaded := t.loaded, signature := t.signature, spriteCount := t.spriteCount,
      busy := false, done := true, fsm := .idle } ∧
    (t.nfReason ≠ s.nfReason → t.err = .notFound) ∧
    (s.op ≠ 1 → t.loaded = s.loaded ∧ t.signature = s.signature ∧ t.spriteCount = s.spriteCount) ∧
    (s.op = 1 → t.loaded = false ∧ t.signature = 0 ∧ t.spriteCount = 0)

/-- The memories' canonical forms are kept by every step, from every state that has them. -/
def Obligations.StepKeepsCanonicalMemories : Prop :=
  ∀ (s t : State), s.amem.wf → s.grid.wf → step s = .next t → t.amem.wf ∧ t.grid.wf

/-- R39 holds right after reset. -/
def Obligations.ResetMeetsR39 : Prop := ∀ z : Word, Inv (State.resetWith z) ∧ Inv State.reset

/-- R39: every step keeps the invariant, from every state that meets it. -/
def Obligations.StepKeepsR39 : Prop := ∀ s t : State, Inv s → step s = .next t → Inv t

/-- R39: its six items in every state that a run reaches from reset, whatever AMEM holds and whatever the host has scheduled.
That the host's actions are a schedule in the state is the model's (log 1), and item 6 holds because FSM.STATE is modelled with its
legal codes only (log 14). A breach of the host's duties is no step (R135). -/
def Obligations.ReachableStatesMeetR39 : Prop :=
  ∀ (z : Word) (m : Memory) (es : List Event) (s : State), m.wf → (∀ c ∈ m, c.1 < z.toNat) →
    Reachable { State.resetWith z with amem := m, events := es } s →
    ((s.busy = true ↔ s.fsm ≠ .idle) ∧ (s.done = true → s.busy = false)) ∧
    (s.pixcount.toNat = 1024 * s.full.toNat + 32 * s.row.toNat + s.col.toNat ∧
      (s.full = true → s.row = 0 ∧ s.col = 0 ∧ s.pixcount = 1024)) ∧
    (s.fsm.decoding = true →
      s.blkStart.toNat + s.blkLen.toNat ≤ s.archiveLen.toNat ∧ s.archiveLen.toNat ≤ s.amemSize.toNat ∧
      s.cursor.toNat ≤ max s.blkLen.toNat 3 ∧
      ∀ k, k < s.pixcount.toNat → ∃ v, gridWord s k = some v ∧ (rleDecode (blockByte s) s.blkLen.toNat)[k]? = some v) ∧
    (s.loaded = true → s.archiveLen.toNat ≤ s.amemSize.toNat ∧ 6 + 4 * s.spriteCount.toNat ≤ s.archiveLen.toNat ∧
      le32 s 0 = some s.signature.toNat ∧ le16 s 4 = some s.spriteCount.toNat) ∧
    (s.fsm ≠ .emitT → s.fsm ≠ .emitC → s.run = 0) ∧
    s.fsm.code < 7

/-- R39 item 3: while a decode runs, the first PIXCOUNT words of GRID are the first PIXCOUNT pixels of the reference decode. -/
def Obligations.GridHoldsDecodedPrefix : Prop :=
  ∀ s : State, Inv s → s.fsm.decoding = true →
    s.pixcount.toNat ≤ 1024 ∧
    ∀ k, k < s.pixcount.toNat → ∃ v, gridWord s k = some v ∧ (rleDecode (blockByte s) s.blkLen.toNat)[k]? = some v

/-- R41, R104: from every state that meets R39 the engine's step has a next state: no fault, no refusal. -/
def Obligations.EngineStepNeverStops : Prop := ∀ s : State, Inv s → ∃ t, engineStep s = .next t

/-- R76: every accepted command reaches finish after exactly one step, or after exactly 1027 + 2k steps when it starts a decode that
reads k tokens, and k is at most half the block's length. It is busy until then. -/
def Obligations.EveryCommandFinishes : Prop :=
  ∀ s : State, Inv s → s.fsm = .exec → s.events = [] → ∃ (k : Nat) (t : State),
    Host.Core.run Sys2Proof.core k s = .next t ∧ t.fsm = .idle ∧ t.busy = false ∧ t.done = true ∧
    (∀ j, j < k → ∃ u : State, Host.Core.run Sys2Proof.core j s = .next u ∧ u.busy = true) ∧
    (s.op ≠ 4 ∧ s.op ≠ 5 ∨ t.err ≠ .ok → k = 1) ∧
    ((s.op = 4 ∨ s.op = 5) ∧ t.err = .ok → k = 1027 + 2 * (refRun (blockByte t) t.blkLen.toNat).tokens ∧
      (refRun (blockByte t) t.blkLen.toNat).tokens ≤ t.blkLen.toNat / 2 ∧ k ≤ 1027 + 4 * (t.blkLen.toNat / 2))

/-- R103: a decode that passes its EXEC step runs to finish(OK) with the reference decode of its block in GRID and the reference's
final cursor. -/
def Obligations.DecodeComputesReference : Prop :=
  ∀ s u : State, Inv s → s.fsm = .exec → s.events = [] → engineStep s = .next u → u.fsm = .fetchT →
    ∃ (k : Nat) (t : State), Host.Core.run Sys2Proof.core k s = .next t ∧ t.fsm = .idle ∧ t.err = .ok ∧ t.done = true ∧
      (rleDecode (blockByte u) u.blkLen.toNat).length = 1024 ∧
      (∀ j, j < 1024 → gridWord t j = (rleDecode (blockByte u) u.blkLen.toNat)[j]?) ∧
      t.cursor.toNat = (refRun (blockByte u) u.blkLen.toNat).cur ∧
      t.pixcount = 1024 ∧ t.full = true ∧ t.row = 0 ∧ t.col = 0 ∧ t.run = 0

/-- R103: whatever the host did meanwhile, the engine step that ends a decode is finish(OK), with the reference decode of the block
in GRID and the reference's final cursor in CURSOR. -/
def Obligations.DecodeFinishHoldsReference : Prop :=
  ∀ s t : State, Inv s → s.fsm.decoding = true → engineStep s = .next t → t.fsm = .idle →
    t = { s with err := .ok, busy := false, done := true, fsm := .idle } ∧
    (rleDecode (blockByte s) s.blkLen.toNat).length = 1024 ∧
    (∀ k, k < 1024 → gridWord t k = (rleDecode (blockByte s) s.blkLen.toNat)[k]?) ∧
    t.cursor.toNat = (refRun (blockByte s) s.blkLen.toNat).cur

/-- R105: two decodes of the same bytes, each started by DECODE or by EXTRACT_DECODE, go step by step alike, whatever else differs,
and end with the same GRID. `s'` and `t'` are the states the two EXEC steps leave, with the block to decode.
That the engine goes on when nothing is scheduled is the model's (log 1). -/
def Obligations.DecodeDependsOnBlockOnly : Prop :=
  ∀ s t s' t' : State, s.fsm = .exec → t.fsm = .exec → s.events = [] → t.events = [] →
    engineStep s = .next s' → engineStep t = .next t' → s'.fsm = .fetchT → t'.fsm = .fetchT →
    RangeOk s' → RangeOk t' → s'.blkLen = t'.blkLen → (∀ k, k < s'.blkLen.toNat → blockByte s' k = blockByte t' k) →
    ∀ k : Nat, ∃ u v : State, Host.Core.run Sys2Proof.core (k + 1) s = .next u ∧ Host.Core.run Sys2Proof.core (k + 1) t = .next v ∧
      u.fsm = v.fsm ∧ u.cursor = v.cursor ∧ u.run = v.run ∧ u.pixcount = v.pixcount ∧ u.shortTail = v.shortTail ∧
      u.runClipped = v.runClipped ∧ (∀ j, j < u.pixcount.toNat → gridWord u j = gridWord v j) ∧
      (u.fsm = .idle → u.pixcount = 1024)

/-- R93, R104: the reference decode gives exactly 1024 pixels for any bytes of any length. -/
def Obligations.ReferenceGives1024Pixels : Prop :=
  ∀ (b : Nat → Byte) (n : Nat), (rleDecode b n).length = 1024
end

