-- ==== Sys2Proof/Laws/Bytes.lean ====
section
/-! SUPPORT. Byte order, the decoder and the encoder: one spec lemma each (30_encoding.md). -/

namespace Sys2Proof

@[simp] theorem leBytes_length (n v : Nat) : (leBytes n v).length = n := by
  induction n generalizing v with
  | zero => rfl
  | succ n ih => simp [leBytes, ih]

/-- Reading back `n` little-endian bytes gives the number modulo `256 ^ n`. -/
theorem leNat_leBytes (n v : Nat) : leNat (leBytes n v) = v % 256 ^ n := by
  induction n generalizing v with
  | zero => simp [leBytes, leNat, Nat.mod_one]
  | succ n ih =>
    have h : v % (256 * 256 ^ n) = v % 256 + 256 * (v / 256 % 256 ^ n) := Nat.mod_mul
    rw [leBytes, leNat, ih, BitVec.toNat_ofNat, pow_succ' 256 n, h]

theorem leNat_lt (bs : List Byte) : leNat bs < 256 ^ bs.length := by
  induction bs with
  | nil => simp [leNat]
  | cons b bs ih =>
    have hb := b.isLt
    simp only [leNat, List.length_cons, pow_succ']
    omega

/-- A byte sequence is the little-endian bytes of its value. -/
theorem leBytes_leNat (bs : List Byte) : leBytes bs.length (leNat bs) = bs := by
  induction bs with
  | nil => rfl
  | cons b bs ih =>
    have hb := b.isLt
    have h1 : (b.toNat + 256 * leNat bs) / 256 = leNat bs := by omega
    have h2 : BitVec.ofNat 8 (b.toNat + 256 * leNat bs) = b := by
      apply BitVec.eq_of_toNat_eq
      rw [BitVec.toNat_ofNat]
      omega
    rw [leNat, List.length_cons, leBytes, h1, h2, ih]

theorem leBytes_four (v : Nat) :
    leBytes 4 v = [BitVec.ofNat 8 v, BitVec.ofNat 8 (v / 256), BitVec.ofNat 8 (v / 256 / 256),
      BitVec.ofNat 8 (v / 256 / 256 / 256)] := rfl

theorem leBytes_two (v : Nat) : leBytes 2 v = [BitVec.ofNat 8 v, BitVec.ofNat 8 (v / 256)] := rfl

/-- Four bytes of a 32-bit value read back as that value. -/
theorem word_of_leBytes (w : Word) : BitVec.ofNat 32 (leNat (leBytes 4 w.toNat)) = w := by
  rw [leNat_leBytes, Nat.mod_eq_of_lt (by simpa using w.isLt), BitVec.ofNat_toNat, BitVec.setWidth_eq]

/-- Two bytes of a 16-bit value read back as that value. -/
theorem half_of_leBytes (w : Half) : BitVec.ofNat 16 (leNat (leBytes 2 w.toNat)) = w := by
  rw [leNat_leBytes, Nat.mod_eq_of_lt (by simpa using w.isLt), BitVec.ofNat_toNat, BitVec.setWidth_eq]

@[simp] theorem opField_toNat (w : Word) : (opField w).toNat = w.toNat % 16 := by
  simp [opField, BitVec.extractLsb'_toNat]

/-- A command slot that holds a number's four bytes decodes to the opcode in its low four bits. -/
theorem decode_command_leBytes (v : Nat) (rest : List Byte) :
    decode .command (leBytes 4 v ++ rest) = .ok (decodeOp (BitVec.ofNat 4 v), rest) := by
  have h : leNat (leBytes 4 v) = v % 4294967296 := leNat_leBytes 4 v
  rw [leBytes_four] at h ⊢
  simp only [List.cons_append, List.nil_append, decode, h, Except.ok.injEq, Prod.mk.injEq, and_true]
  congr 1
  apply BitVec.eq_of_toNat_eq
  rw [opField_toNat, BitVec.toNat_ofNat, BitVec.toNat_ofNat]
  omega

theorem decodeOp_slot (op : BitVec 4) : (decodeOp op).slot = .command := by
  revert op; decide

theorem decodeOp_wellFormed (op : BitVec 4) : WellFormed (decodeOp op) := by
  revert op; decide

end Sys2Proof
end

