-- ==== Sys2Proof/Laws/Memory.lean ====
section
/-! SUPPORT. Sparse memories: read after write, what a write leaves alone, and the canonical form that every write keeps;
and what the AMEM read port answers (20_memory.md). -/

namespace Sys2Proof.Machine

variable {β : Type}

/-- Read after write. -/
@[simp] theorem sparseGet_sparseSet_self (m : List (Nat × β)) (a : Nat) (v : β) : sparseGet (sparseSet m a v) a = some v := by
  induction m with
  | nil => simp [sparseSet, sparseGet]
  | cons c m ih =>
    simp only [sparseSet]
    split
    · simp [sparseGet]
    · split
      · simp [sparseGet]
      · rename_i h
        rw [sparseGet, if_neg (Ne.symm h), ih]

/-- A write leaves every other key alone. -/
theorem sparseGet_sparseSet_ne (m : List (Nat × β)) (a b : Nat) (v : β) (h : b ≠ a) :
    sparseGet (sparseSet m a v) b = sparseGet m b := by
  induction m with
  | nil => simp [sparseSet, sparseGet, Ne.symm h]
  | cons c m ih =>
    simp only [sparseSet]
    split
    · simp [sparseGet, Ne.symm h]
    · split
      · rename_i hk
        simp [sparseGet, Ne.symm h, ← hk]
      · simp only [sparseGet, ih]

/-- Both in one: a read after a write. -/
theorem sparseGet_sparseSet (m : List (Nat × β)) (a b : Nat) (v : β) :
    sparseGet (sparseSet m a v) b = if b = a then some v else sparseGet m b := by
  split
  · rename_i h; rw [h, sparseGet_sparseSet_self]
  · rename_i h; exact sparseGet_sparseSet_ne m a b v h

/-- The keys after a write are those before and the one written. -/
theorem mem_sparseSet (m : List (Nat × β)) (a : Nat) (v : β) (c : Nat × β) (h : c ∈ sparseSet m a v) :
    c = (a, v) ∨ c ∈ m := by
  induction m with
  | nil => exact .inl (by simpa [sparseSet] using h)
  | cons d m ih =>
    simp only [sparseSet] at h
    split at h
    · exact (List.mem_cons.1 h).imp_right id
    · split at h
      · exact (List.mem_cons.1 h).imp_right (List.mem_cons_of_mem _)
      · rcases List.mem_cons.1 h with h | h
        · exact .inr (h ▸ List.mem_cons_self)
        · exact (ih h).imp_right (List.mem_cons_of_mem _)

/-- Every write keeps the keys strictly rising. -/
theorem sparseSet_pairwise (m : List (Nat × β)) (a : Nat) (v : β) (h : (m.map Prod.fst).Pairwise (· < ·)) :
    ((sparseSet m a v).map Prod.fst).Pairwise (· < ·) := by
  induction m with
  | nil => simp [sparseSet]
  | cons c m ih =>
    rw [List.map_cons, List.pairwise_cons] at h
    obtain ⟨hc, hm⟩ := h
    simp only [sparseSet]
    split
    · rename_i hlt
      simp only [List.map_cons, List.pairwise_cons, List.mem_cons, forall_eq_or_imp]
      exact ⟨⟨hlt, fun k hk => lt_trans hlt (hc k hk)⟩, hc, hm⟩
    · split
      · rename_i heq
        simp only [List.map_cons, List.pairwise_cons]
        exact ⟨fun k hk => heq ▸ hc k hk, hm⟩
      · simp only [List.map_cons, List.pairwise_cons]
        refine ⟨fun k hk => ?_, ih hm⟩
        obtain ⟨d, hd, rfl⟩ := List.mem_map.1 hk
        rcases mem_sparseSet m a v d hd with rfl | hd
        · dsimp only; omega
        · exact hc _ (List.mem_map_of_mem hd)

/-- The host's AMEM write keeps the canonical form. -/
theorem amemStore_wf (a : Nat) (b : Byte) (s : State) (h : s.amem.wf) : (amemStore a b s).amem.wf :=
  sparseSet_pairwise s.amem a b h

/-- The engine's GRID write keeps the canonical form. -/
theorem gridWrite_wf (k : Nat) (v : Word) (s : State) (h : s.grid.wf) : (gridWrite k v s).grid.wf :=
  sparseSet_pairwise s.grid k v h

/-- The read port answers inside AMEM, with the byte AMEM holds. -/
theorem amemByte_of_lt (s : State) (a : Nat) (h : a < s.amemSize.toNat) : amemByte s a = some (amemValue s a) := if_pos h

/-- `n` bytes that all lie inside AMEM are read. -/
theorem amemBytes_of_le (s : State) (a n : Nat) (h : a + n ≤ s.amemSize.toNat) :
    amemBytes s a n = some ((List.range n).map fun i => amemValue s (a + i)) := by
  induction n generalizing a with
  | zero => rfl
  | succ n ih =>
    rw [amemBytes, amemByte_of_lt s a (by omega), Option.bind_some, ih (a + 1) (by omega), Option.map_some,
      List.range_succ_eq_map, List.map_cons, List.map_map]
    congr 2
    apply List.map_congr_left
    intro i _
    simp only [Function.comp_apply, Nat.succ_eq_add_one]
    congr 1
    omega

/-- Bytes are read only if all of them lie inside AMEM. -/
theorem le_of_amemBytes (s : State) (a n : Nat) (bs : List Byte) (hn : 0 < n) (h : amemBytes s a n = some bs) :
    a + n ≤ s.amemSize.toNat := by
  induction n generalizing a bs with
  | zero => omega
  | succ n ih =>
    simp only [amemBytes, Option.bind_eq_some_iff, Option.map_eq_some_iff] at h
    obtain ⟨b, hb, cs, hcs, -⟩ := h
    have ha : a < s.amemSize.toNat := by
      unfold amemByte at hb
      split at hb
      · assumption
      · cases hb
    rcases Nat.eq_zero_or_pos n with rfl | hpos
    · omega
    · have := ih (a + 1) cs hpos hcs
      omega

/-- A multi-byte read inside AMEM is the little-endian sum of the bytes (R42). -/
theorem memRead_of_le (s : State) (a n : Nat) (h : a + n ≤ s.amemSize.toNat) :
    memRead s a n = some (leNat ((List.range n).map fun i => amemValue s (a + i))) := by
  rw [memRead, amemBytes_of_le s a n h, Option.map_some]

/-- LE16 inside AMEM (R42). -/
theorem le16_of_le (s : State) (a : Nat) (h : a + 2 ≤ s.amemSize.toNat) :
    le16 s a = some ((amemValue s a).toNat + 256 * (amemValue s (a + 1)).toNat) := by
  rw [le16, memRead_of_le s a 2 h]
  simp [leNat, List.range_succ]

/-- LE32 inside AMEM (R42). -/
theorem le32_of_le (s : State) (a : Nat) (h : a + 4 ≤ s.amemSize.toNat) :
    le32 s a = some ((amemValue s a).toNat + 256 * (amemValue s (a + 1)).toNat
      + 65536 * (amemValue s (a + 2)).toNat + 16777216 * (amemValue s (a + 3)).toNat) := by
  rw [le32, memRead_of_le s a 4 h]
  simp only [leNat, List.range_succ, List.range_zero, List.nil_append, List.cons_append, List.map_cons, List.map_nil,
    Nat.add_zero, Option.some.injEq]
  ring

/-- Two states with the same AMEM and AMEM_SIZE read alike. -/
theorem amemBytes_congr (s t : State) (hm : t.amem = s.amem) (hz : t.amemSize = s.amemSize) (a n : Nat) :
    amemBytes t a n = amemBytes s a n := by
  induction n generalizing a with
  | zero => rfl
  | succ n ih => simp only [amemBytes, amemByte, amemValue, hm, hz, ih]

theorem memRead_congr (s t : State) (hm : t.amem = s.amem) (hz : t.amemSize = s.amemSize) (a n : Nat) :
    memRead t a n = memRead s a n := by
  rw [memRead, memRead, amemBytes_congr s t hm hz]

/-- A read is untouched by a write outside it. -/
theorem amemBytes_amemStore (s : State) (x : Nat) (v : Byte) (a n : Nat) (h : a + n ≤ x) :
    amemBytes (amemStore x v s) a n = amemBytes s a n := by
  induction n generalizing a with
  | zero => rfl
  | succ n ih =>
    have hx : amemByte (amemStore x v s) a = amemByte s a := by
      simp only [amemByte, amemValue, amemStore]
      rw [sparseGet_sparseSet_ne s.amem x a v (by omega)]
      rfl
    rw [amemBytes, amemBytes, hx, ih (a + 1) (by omega)]

end Sys2Proof.Machine
end

