-- ==== Sys2Proof/Laws/State.lean ====
section
/-! SUPPORT. One lemma per field per update of State, each true by rfl, so that no proof unfolds a record update. -/

namespace Sys2Proof.Machine

variable (s : State)

/-! ### finish -/

@[simp] theorem finish_irqEn (e : Err) : (finish e s).irqEn = s.irqEn := rfl
@[simp] theorem finish_busy (e : Err) : (finish e s).busy = false := rfl
@[simp] theorem finish_done (e : Err) : (finish e s).done = true := rfl
@[simp] theorem finish_loaded (e : Err) : (finish e s).loaded = s.loaded := rfl
@[simp] theorem finish_hostViol (e : Err) : (finish e s).hostViol = s.hostViol := rfl
@[simp] theorem finish_err (e : Err) : (finish e s).err = e := rfl
@[simp] theorem finish_nfReason (e : Err) : (finish e s).nfReason = s.nfReason := rfl
@[simp] theorem finish_shortTail (e : Err) : (finish e s).shortTail = s.shortTail := rfl
@[simp] theorem finish_runClipped (e : Err) : (finish e s).runClipped = s.runClipped := rfl
@[simp] theorem finish_archiveLen (e : Err) : (finish e s).archiveLen = s.archiveLen := rfl
@[simp] theorem finish_signature (e : Err) : (finish e s).signature = s.signature := rfl
@[simp] theorem finish_spriteCount (e : Err) : (finish e s).spriteCount = s.spriteCount := rfl
@[simp] theorem finish_spriteId (e : Err) : (finish e s).spriteId = s.spriteId := rfl
@[simp] theorem finish_blkStart (e : Err) : (finish e s).blkStart = s.blkStart := rfl
@[simp] theorem finish_blkLen (e : Err) : (finish e s).blkLen = s.blkLen := rfl
@[simp] theorem finish_cursor (e : Err) : (finish e s).cursor = s.cursor := rfl
@[simp] theorem finish_run (e : Err) : (finish e s).run = s.run := rfl
@[simp] theorem finish_pixcount (e : Err) : (finish e s).pixcount = s.pixcount := rfl
@[simp] theorem finish_col (e : Err) : (finish e s).col = s.col := rfl
@[simp] theorem finish_row (e : Err) : (finish e s).row = s.row := rfl
@[simp] theorem finish_full (e : Err) : (finish e s).full = s.full := rfl
@[simp] theorem finish_fsm (e : Err) : (finish e s).fsm = .idle := rfl
@[simp] theorem finish_op (e : Err) : (finish e s).op = s.op := rfl
@[simp] theorem finish_amemSize (e : Err) : (finish e s).amemSize = s.amemSize := rfl
@[simp] theorem finish_amem (e : Err) : (finish e s).amem = s.amem := rfl
@[simp] theorem finish_grid (e : Err) : (finish e s).grid = s.grid := rfl
@[simp] theorem finish_events (e : Err) : (finish e s).events = s.events := rfl
@[simp] theorem finish_response (e : Err) : (finish e s).response = s.response := rfl

/-! ### accept -/

@[simp] theorem accept_irqEn (o : BitVec 4) : (accept o s).irqEn = s.irqEn := rfl
@[simp] theorem accept_busy (o : BitVec 4) : (accept o s).busy = true := rfl
@[simp] theorem accept_done (o : BitVec 4) : (accept o s).done = false := rfl
@[simp] theorem accept_loaded (o : BitVec 4) : (accept o s).loaded = s.loaded := rfl
@[simp] theorem accept_hostViol (o : BitVec 4) : (accept o s).hostViol = s.hostViol := rfl
@[simp] theorem accept_err (o : BitVec 4) : (accept o s).err = .ok := rfl
@[simp] theorem accept_nfReason (o : BitVec 4) : (accept o s).nfReason = .none := rfl
@[simp] theorem accept_shortTail (o : BitVec 4) : (accept o s).shortTail = s.shortTail := rfl
@[simp] theorem accept_runClipped (o : BitVec 4) : (accept o s).runClipped = s.runClipped := rfl
@[simp] theorem accept_archiveLen (o : BitVec 4) : (accept o s).archiveLen = s.archiveLen := rfl
@[simp] theorem accept_signature (o : BitVec 4) : (accept o s).signature = s.signature := rfl
@[simp] theorem accept_spriteCount (o : BitVec 4) : (accept o s).spriteCount = s.spriteCount := rfl
@[simp] theorem accept_spriteId (o : BitVec 4) : (accept o s).spriteId = s.spriteId := rfl
@[simp] theorem accept_blkStart (o : BitVec 4) : (accept o s).blkStart = s.blkStart := rfl
@[simp] theorem accept_blkLen (o : BitVec 4) : (accept o s).blkLen = s.blkLen := rfl
@[simp] theorem accept_cursor (o : BitVec 4) : (accept o s).cursor = s.cursor := rfl
@[simp] theorem accept_run (o : BitVec 4) : (accept o s).run = s.run := rfl
@[simp] theorem accept_pixcount (o : BitVec 4) : (accept o s).pixcount = s.pixcount := rfl
@[simp] theorem accept_col (o : BitVec 4) : (accept o s).col = s.col := rfl
@[simp] theorem accept_row (o : BitVec 4) : (accept o s).row = s.row := rfl
@[simp] theorem accept_full (o : BitVec 4) : (accept o s).full = s.full := rfl
@[simp] theorem accept_fsm (o : BitVec 4) : (accept o s).fsm = .exec := rfl
@[simp] theorem accept_op (o : BitVec 4) : (accept o s).op = o := rfl
@[simp] theorem accept_amemSize (o : BitVec 4) : (accept o s).amemSize = s.amemSize := rfl
@[simp] theorem accept_amem (o : BitVec 4) : (accept o s).amem = s.amem := rfl
@[simp] theorem accept_grid (o : BitVec 4) : (accept o s).grid = s.grid := rfl
@[simp] theorem accept_events (o : BitVec 4) : (accept o s).events = s.events := rfl
@[simp] theorem accept_response (o : BitVec 4) : (accept o s).response = s.response := rfl

/-! ### dropWrite -/

@[simp] theorem dropWrite_irqEn : (dropWrite s).irqEn = s.irqEn := rfl
@[simp] theorem dropWrite_busy : (dropWrite s).busy = s.busy := rfl
@[simp] theorem dropWrite_done : (dropWrite s).done = s.done := rfl
@[simp] theorem dropWrite_loaded : (dropWrite s).loaded = s.loaded := rfl
@[simp] theorem dropWrite_hostViol : (dropWrite s).hostViol = true := rfl
@[simp] theorem dropWrite_err : (dropWrite s).err = s.err := rfl
@[simp] theorem dropWrite_nfReason : (dropWrite s).nfReason = s.nfReason := rfl
@[simp] theorem dropWrite_shortTail : (dropWrite s).shortTail = s.shortTail := rfl
@[simp] theorem dropWrite_runClipped : (dropWrite s).runClipped = s.runClipped := rfl
@[simp] theorem dropWrite_archiveLen : (dropWrite s).archiveLen = s.archiveLen := rfl
@[simp] theorem dropWrite_signature : (dropWrite s).signature = s.signature := rfl
@[simp] theorem dropWrite_spriteCount : (dropWrite s).spriteCount = s.spriteCount := rfl
@[simp] theorem dropWrite_spriteId : (dropWrite s).spriteId = s.spriteId := rfl
@[simp] theorem dropWrite_blkStart : (dropWrite s).blkStart = s.blkStart := rfl
@[simp] theorem dropWrite_blkLen : (dropWrite s).blkLen = s.blkLen := rfl
@[simp] theorem dropWrite_cursor : (dropWrite s).cursor = s.cursor := rfl
@[simp] theorem dropWrite_run : (dropWrite s).run = s.run := rfl
@[simp] theorem dropWrite_pixcount : (dropWrite s).pixcount = s.pixcount := rfl
@[simp] theorem dropWrite_col : (dropWrite s).col = s.col := rfl
@[simp] theorem dropWrite_row : (dropWrite s).row = s.row := rfl
@[simp] theorem dropWrite_full : (dropWrite s).full = s.full := rfl
@[simp] theorem dropWrite_fsm : (dropWrite s).fsm = s.fsm := rfl
@[simp] theorem dropWrite_op : (dropWrite s).op = s.op := rfl
@[simp] theorem dropWrite_amemSize : (dropWrite s).amemSize = s.amemSize := rfl
@[simp] theorem dropWrite_amem : (dropWrite s).amem = s.amem := rfl
@[simp] theorem dropWrite_grid : (dropWrite s).grid = s.grid := rfl
@[simp] theorem dropWrite_events : (dropWrite s).events = s.events := rfl
@[simp] theorem dropWrite_response : (dropWrite s).response = s.response := rfl

/-! ### clearArchive -/

@[simp] theorem clearArchive_irqEn : (clearArchive s).irqEn = s.irqEn := rfl
@[simp] theorem clearArchive_busy : (clearArchive s).busy = s.busy := rfl
@[simp] theorem clearArchive_done : (clearArchive s).done = s.done := rfl
@[simp] theorem clearArchive_loaded : (clearArchive s).loaded = false := rfl
@[simp] theorem clearArchive_hostViol : (clearArchive s).hostViol = s.hostViol := rfl
@[simp] theorem clearArchive_err : (clearArchive s).err = s.err := rfl
@[simp] theorem clearArchive_nfReason : (clearArchive s).nfReason = s.nfReason := rfl
@[simp] theorem clearArchive_shortTail : (clearArchive s).shortTail = s.shortTail := rfl
@[simp] theorem clearArchive_runClipped : (clearArchive s).runClipped = s.runClipped := rfl
@[simp] theorem clearArchive_archiveLen : (clearArchive s).archiveLen = s.archiveLen := rfl
@[simp] theorem clearArchive_signature : (clearArchive s).signature = 0 := rfl
@[simp] theorem clearArchive_spriteCount : (clearArchive s).spriteCount = 0 := rfl
@[simp] theorem clearArchive_spriteId : (clearArchive s).spriteId = s.spriteId := rfl
@[simp] theorem clearArchive_blkStart : (clearArchive s).blkStart = s.blkStart := rfl
@[simp] theorem clearArchive_blkLen : (clearArchive s).blkLen = s.blkLen := rfl
@[simp] theorem clearArchive_cursor : (clearArchive s).cursor = s.cursor := rfl
@[simp] theorem clearArchive_run : (clearArchive s).run = s.run := rfl
@[simp] theorem clearArchive_pixcount : (clearArchive s).pixcount = s.pixcount := rfl
@[simp] theorem clearArchive_col : (clearArchive s).col = s.col := rfl
@[simp] theorem clearArchive_row : (clearArchive s).row = s.row := rfl
@[simp] theorem clearArchive_full : (clearArchive s).full = s.full := rfl
@[simp] theorem clearArchive_fsm : (clearArchive s).fsm = s.fsm := rfl
@[simp] theorem clearArchive_op : (clearArchive s).op = s.op := rfl
@[simp] theorem clearArchive_amemSize : (clearArchive s).amemSize = s.amemSize := rfl
@[simp] theorem clearArchive_amem : (clearArchive s).amem = s.amem := rfl
@[simp] theorem clearArchive_grid : (clearArchive s).grid = s.grid := rfl
@[simp] theorem clearArchive_events : (clearArchive s).events = s.events := rfl
@[simp] theorem clearArchive_response : (clearArchive s).response = s.response := rfl

/-! ### latchSignature -/

@[simp] theorem latchSignature_irqEn (v : Word) : (latchSignature v s).irqEn = s.irqEn := rfl
@[simp] theorem latchSignature_busy (v : Word) : (latchSignature v s).busy = s.busy := rfl
@[simp] theorem latchSignature_done (v : Word) : (latchSignature v s).done = s.done := rfl
@[simp] theorem latchSignature_loaded (v : Word) : (latchSignature v s).loaded = s.loaded := rfl
@[simp] theorem latchSignature_hostViol (v : Word) : (latchSignature v s).hostViol = s.hostViol := rfl
@[simp] theorem latchSignature_err (v : Word) : (latchSignature v s).err = s.err := rfl
@[simp] theorem latchSignature_nfReason (v : Word) : (latchSignature v s).nfReason = s.nfReason := rfl
@[simp] theorem latchSignature_shortTail (v : Word) : (latchSignature v s).shortTail = s.shortTail := rfl
@[simp] theorem latchSignature_runClipped (v : Word) : (latchSignature v s).runClipped = s.runClipped := rfl
@[simp] theorem latchSignature_archiveLen (v : Word) : (latchSignature v s).archiveLen = s.archiveLen := rfl
@[simp] theorem latchSignature_signature (v : Word) : (latchSignature v s).signature = v := rfl
@[simp] theorem latchSignature_spriteCount (v : Word) : (latchSignature v s).spriteCount = s.spriteCount := rfl
@[simp] theorem latchSignature_spriteId (v : Word) : (latchSignature v s).spriteId = s.spriteId := rfl
@[simp] theorem latchSignature_blkStart (v : Word) : (latchSignature v s).blkStart = s.blkStart := rfl
@[simp] theorem latchSignature_blkLen (v : Word) : (latchSignature v s).blkLen = s.blkLen := rfl
@[simp] theorem latchSignature_cursor (v : Word) : (latchSignature v s).cursor = s.cursor := rfl
@[simp] theorem latchSignature_run (v : Word) : (latchSignature v s).run = s.run := rfl
@[simp] theorem latchSignature_pixcount (v : Word) : (latchSignature v s).pixcount = s.pixcount := rfl
@[simp] theorem latchSignature_col (v : Word) : (latchSignature v s).col = s.col := rfl
@[simp] theorem latchSignature_row (v : Word) : (latchSignature v s).row = s.row := rfl
@[simp] theorem latchSignature_full (v : Word) : (latchSignature v s).full = s.full := rfl
@[simp] theorem latchSignature_fsm (v : Word) : (latchSignature v s).fsm = s.fsm := rfl
@[simp] theorem latchSignature_op (v : Word) : (latchSignature v s).op = s.op := rfl
@[simp] theorem latchSignature_amemSize (v : Word) : (latchSignature v s).amemSize = s.amemSize := rfl
@[simp] theorem latchSignature_amem (v : Word) : (latchSignature v s).amem = s.amem := rfl
@[simp] theorem latchSignature_grid (v : Word) : (latchSignature v s).grid = s.grid := rfl
@[simp] theorem latchSignature_events (v : Word) : (latchSignature v s).events = s.events := rfl
@[simp] theorem latchSignature_response (v : Word) : (latchSignature v s).response = s.response := rfl

/-! ### latchCount -/

@[simp] theorem latchCount_irqEn (n : Half) : (latchCount n s).irqEn = s.irqEn := rfl
@[simp] theorem latchCount_busy (n : Half) : (latchCount n s).busy = s.busy := rfl
@[simp] theorem latchCount_done (n : Half) : (latchCount n s).done = s.done := rfl
@[simp] theorem latchCount_loaded (n : Half) : (latchCount n s).loaded = true := rfl
@[simp] theorem latchCount_hostViol (n : Half) : (latchCount n s).hostViol = s.hostViol := rfl
@[simp] theorem latchCount_err (n : Half) : (latchCount n s).err = s.err := rfl
@[simp] theorem latchCount_nfReason (n : Half) : (latchCount n s).nfReason = s.nfReason := rfl
@[simp] theorem latchCount_shortTail (n : Half) : (latchCount n s).shortTail = s.shortTail := rfl
@[simp] theorem latchCount_runClipped (n : Half) : (latchCount n s).runClipped = s.runClipped := rfl
@[simp] theorem latchCount_archiveLen (n : Half) : (latchCount n s).archiveLen = s.archiveLen := rfl
@[simp] theorem latchCount_signature (n : Half) : (latchCount n s).signature = s.signature := rfl
@[simp] theorem latchCount_spriteCount (n : Half) : (latchCount n s).spriteCount = n := rfl
@[simp] theorem latchCount_spriteId (n : Half) : (latchCount n s).spriteId = s.spriteId := rfl
@[simp] theorem latchCount_blkStart (n : Half) : (latchCount n s).blkStart = s.blkStart := rfl
@[simp] theorem latchCount_blkLen (n : Half) : (latchCount n s).blkLen = s.blkLen := rfl
@[simp] theorem latchCount_cursor (n : Half) : (latchCount n s).cursor = s.cursor := rfl
@[simp] theorem latchCount_run (n : Half) : (latchCount n s).run = s.run := rfl
@[simp] theorem latchCount_pixcount (n : Half) : (latchCount n s).pixcount = s.pixcount := rfl
@[simp] theorem latchCount_col (n : Half) : (latchCount n s).col = s.col := rfl
@[simp] theorem latchCount_row (n : Half) : (latchCount n s).row = s.row := rfl
@[simp] theorem latchCount_full (n : Half) : (latchCount n s).full = s.full := rfl
@[simp] theorem latchCount_fsm (n : Half) : (latchCount n s).fsm = s.fsm := rfl
@[simp] theorem latchCount_op (n : Half) : (latchCount n s).op = s.op := rfl
@[simp] theorem latchCount_amemSize (n : Half) : (latchCount n s).amemSize = s.amemSize := rfl
@[simp] theorem latchCount_amem (n : Half) : (latchCount n s).amem = s.amem := rfl
@[simp] theorem latchCount_grid (n : Half) : (latchCount n s).grid = s.grid := rfl
@[simp] theorem latchCount_events (n : Half) : (latchCount n s).events = s.events := rfl
@[simp] theorem latchCount_response (n : Half) : (latchCount n s).response = s.response := rfl

/-! ### setRange -/

@[simp] theorem setRange_irqEn (a n : Word) : (setRange a n s).irqEn = s.irqEn := rfl
@[simp] theorem setRange_busy (a n : Word) : (setRange a n s).busy = s.busy := rfl
@[simp] theorem setRange_done (a n : Word) : (setRange a n s).done = s.done := rfl
@[simp] theorem setRange_loaded (a n : Word) : (setRange a n s).loaded = s.loaded := rfl
@[simp] theorem setRange_hostViol (a n : Word) : (setRange a n s).hostViol = s.hostViol := rfl
@[simp] theorem setRange_err (a n : Word) : (setRange a n s).err = s.err := rfl
@[simp] theorem setRange_nfReason (a n : Word) : (setRange a n s).nfReason = s.nfReason := rfl
@[simp] theorem setRange_shortTail (a n : Word) : (setRange a n s).shortTail = s.shortTail := rfl
@[simp] theorem setRange_runClipped (a n : Word) : (setRange a n s).runClipped = s.runClipped := rfl
@[simp] theorem setRange_archiveLen (a n : Word) : (setRange a n s).archiveLen = s.archiveLen := rfl
@[simp] theorem setRange_signature (a n : Word) : (setRange a n s).signature = s.signature := rfl
@[simp] theorem setRange_spriteCount (a n : Word) : (setRange a n s).spriteCount = s.spriteCount := rfl
@[simp] theorem setRange_spriteId (a n : Word) : (setRange a n s).spriteId = s.spriteId := rfl
@[simp] theorem setRange_blkStart (a n : Word) : (setRange a n s).blkStart = a := rfl
@[simp] theorem setRange_blkLen (a n : Word) : (setRange a n s).blkLen = n := rfl
@[simp] theorem setRange_cursor (a n : Word) : (setRange a n s).cursor = s.cursor := rfl
@[simp] theorem setRange_run (a n : Word) : (setRange a n s).run = s.run := rfl
@[simp] theorem setRange_pixcount (a n : Word) : (setRange a n s).pixcount = s.pixcount := rfl
@[simp] theorem setRange_col (a n : Word) : (setRange a n s).col = s.col := rfl
@[simp] theorem setRange_row (a n : Word) : (setRange a n s).row = s.row := rfl
@[simp] theorem setRange_full (a n : Word) : (setRange a n s).full = s.full := rfl
@[simp] theorem setRange_fsm (a n : Word) : (setRange a n s).fsm = s.fsm := rfl
@[simp] theorem setRange_op (a n : Word) : (setRange a n s).op = s.op := rfl
@[simp] theorem setRange_amemSize (a n : Word) : (setRange a n s).amemSize = s.amemSize := rfl
@[simp] theorem setRange_amem (a n : Word) : (setRange a n s).amem = s.amem := rfl
@[simp] theorem setRange_grid (a n : Word) : (setRange a n s).grid = s.grid := rfl
@[simp] theorem setRange_events (a n : Word) : (setRange a n s).events = s.events := rfl
@[simp] theorem setRange_response (a n : Word) : (setRange a n s).response = s.response := rfl

/-! ### setReason -/

@[simp] theorem setReason_irqEn (k : NfReason) : (setReason k s).irqEn = s.irqEn := rfl
@[simp] theorem setReason_busy (k : NfReason) : (setReason k s).busy = s.busy := rfl
@[simp] theorem setReason_done (k : NfReason) : (setReason k s).done = s.done := rfl
@[simp] theorem setReason_loaded (k : NfReason) : (setReason k s).loaded = s.loaded := rfl
@[simp] theorem setReason_hostViol (k : NfReason) : (setReason k s).hostViol = s.hostViol := rfl
@[simp] theorem setReason_err (k : NfReason) : (setReason k s).err = s.err := rfl
@[simp] theorem setReason_nfReason (k : NfReason) : (setReason k s).nfReason = k := rfl
@[simp] theorem setReason_shortTail (k : NfReason) : (setReason k s).shortTail = s.shortTail := rfl
@[simp] theorem setReason_runClipped (k : NfReason) : (setReason k s).runClipped = s.runClipped := rfl
@[simp] theorem setReason_archiveLen (k : NfReason) : (setReason k s).archiveLen = s.archiveLen := rfl
@[simp] theorem setReason_signature (k : NfReason) : (setReason k s).signature = s.signature := rfl
@[simp] theorem setReason_spriteCount (k : NfReason) : (setReason k s).spriteCount = s.spriteCount := rfl
@[simp] theorem setReason_spriteId (k : NfReason) : (setReason k s).spriteId = s.spriteId := rfl
@[simp] theorem setReason_blkStart (k : NfReason) : (setReason k s).blkStart = s.blkStart := rfl
@[simp] theorem setReason_blkLen (k : NfReason) : (setReason k s).blkLen = s.blkLen := rfl
@[simp] theorem setReason_cursor (k : NfReason) : (setReason k s).cursor = s.cursor := rfl
@[simp] theorem setReason_run (k : NfReason) : (setReason k s).run = s.run := rfl
@[simp] theorem setReason_pixcount (k : NfReason) : (setReason k s).pixcount = s.pixcount := rfl
@[simp] theorem setReason_col (k : NfReason) : (setReason k s).col = s.col := rfl
@[simp] theorem setReason_row (k : NfReason) : (setReason k s).row = s.row := rfl
@[simp] theorem setReason_full (k : NfReason) : (setReason k s).full = s.full := rfl
@[simp] theorem setReason_fsm (k : NfReason) : (setReason k s).fsm = s.fsm := rfl
@[simp] theorem setReason_op (k : NfReason) : (setReason k s).op = s.op := rfl
@[simp] theorem setReason_amemSize (k : NfReason) : (setReason k s).amemSize = s.amemSize := rfl
@[simp] theorem setReason_amem (k : NfReason) : (setReason k s).amem = s.amem := rfl
@[simp] theorem setReason_grid (k : NfReason) : (setReason k s).grid = s.grid := rfl
@[simp] theorem setReason_events (k : NfReason) : (setReason k s).events = s.events := rfl
@[simp] theorem setReason_response (k : NfReason) : (setReason k s).response = s.response := rfl

/-! ### startDecode -/

@[simp] theorem startDecode_irqEn : (startDecode s).irqEn = s.irqEn := rfl
@[simp] theorem startDecode_busy : (startDecode s).busy = s.busy := rfl
@[simp] theorem startDecode_done : (startDecode s).done = s.done := rfl
@[simp] theorem startDecode_loaded : (startDecode s).loaded = s.loaded := rfl
@[simp] theorem startDecode_hostViol : (startDecode s).hostViol = s.hostViol := rfl
@[simp] theorem startDecode_err : (startDecode s).err = s.err := rfl
@[simp] theorem startDecode_nfReason : (startDecode s).nfReason = s.nfReason := rfl
@[simp] theorem startDecode_shortTail : (startDecode s).shortTail = false := rfl
@[simp] theorem startDecode_runClipped : (startDecode s).runClipped = false := rfl
@[simp] theorem startDecode_archiveLen : (startDecode s).archiveLen = s.archiveLen := rfl
@[simp] theorem startDecode_signature : (startDecode s).signature = s.signature := rfl
@[simp] theorem startDecode_spriteCount : (startDecode s).spriteCount = s.spriteCount := rfl
@[simp] theorem startDecode_spriteId : (startDecode s).spriteId = s.spriteId := rfl
@[simp] theorem startDecode_blkStart : (startDecode s).blkStart = s.blkStart := rfl
@[simp] theorem startDecode_blkLen : (startDecode s).blkLen = s.blkLen := rfl
@[simp] theorem startDecode_cursor : (startDecode s).cursor = if s.blkLen.toNat ≤ 5 then 3 else 5 := rfl
@[simp] theorem startDecode_run : (startDecode s).run = 0 := rfl
@[simp] theorem startDecode_pixcount : (startDecode s).pixcount = 0 := rfl
@[simp] theorem startDecode_col : (startDecode s).col = 0 := rfl
@[simp] theorem startDecode_row : (startDecode s).row = 0 := rfl
@[simp] theorem startDecode_full : (startDecode s).full = false := rfl
@[simp] theorem startDecode_fsm : (startDecode s).fsm = .fetchT := rfl
@[simp] theorem startDecode_op : (startDecode s).op = s.op := rfl
@[simp] theorem startDecode_amemSize : (startDecode s).amemSize = s.amemSize := rfl
@[simp] theorem startDecode_amem : (startDecode s).amem = s.amem := rfl
@[simp] theorem startDecode_grid : (startDecode s).grid = s.grid := rfl
@[simp] theorem startDecode_events : (startDecode s).events = s.events := rfl
@[simp] theorem startDecode_response : (startDecode s).response = s.response := rfl

/-! ### loadRun -/

@[simp] theorem loadRun_irqEn (n : Half) (f : FsmState) : (loadRun n f s).irqEn = s.irqEn := rfl
@[simp] theorem loadRun_busy (n : Half) (f : FsmState) : (loadRun n f s).busy = s.busy := rfl
@[simp] theorem loadRun_done (n : Half) (f : FsmState) : (loadRun n f s).done = s.done := rfl
@[simp] theorem loadRun_loaded (n : Half) (f : FsmState) : (loadRun n f s).loaded = s.loaded := rfl
@[simp] theorem loadRun_hostViol (n : Half) (f : FsmState) : (loadRun n f s).hostViol = s.hostViol := rfl
@[simp] theorem loadRun_err (n : Half) (f : FsmState) : (loadRun n f s).err = s.err := rfl
@[simp] theorem loadRun_nfReason (n : Half) (f : FsmState) : (loadRun n f s).nfReason = s.nfReason := rfl
@[simp] theorem loadRun_shortTail (n : Half) (f : FsmState) : (loadRun n f s).shortTail = s.shortTail := rfl
@[simp] theorem loadRun_runClipped (n : Half) (f : FsmState) : (loadRun n f s).runClipped = s.runClipped := rfl
@[simp] theorem loadRun_archiveLen (n : Half) (f : FsmState) : (loadRun n f s).archiveLen = s.archiveLen := rfl
@[simp] theorem loadRun_signature (n : Half) (f : FsmState) : (loadRun n f s).signature = s.signature := rfl
@[simp] theorem loadRun_spriteCount (n : Half) (f : FsmState) : (loadRun n f s).spriteCount = s.spriteCount := rfl
@[simp] theorem loadRun_spriteId (n : Half) (f : FsmState) : (loadRun n f s).spriteId = s.spriteId := rfl
@[simp] theorem loadRun_blkStart (n : Half) (f : FsmState) : (loadRun n f s).blkStart = s.blkStart := rfl
@[simp] theorem loadRun_blkLen (n : Half) (f : FsmState) : (loadRun n f s).blkLen = s.blkLen := rfl
@[simp] theorem loadRun_cursor (n : Half) (f : FsmState) : (loadRun n f s).cursor = s.cursor + 2 := rfl
@[simp] theorem loadRun_run (n : Half) (f : FsmState) : (loadRun n f s).run = n := rfl
@[simp] theorem loadRun_pixcount (n : Half) (f : FsmState) : (loadRun n f s).pixcount = s.pixcount := rfl
@[simp] theorem loadRun_col (n : Half) (f : FsmState) : (loadRun n f s).col = s.col := rfl
@[simp] theorem loadRun_row (n : Half) (f : FsmState) : (loadRun n f s).row = s.row := rfl
@[simp] theorem loadRun_full (n : Half) (f : FsmState) : (loadRun n f s).full = s.full := rfl
@[simp] theorem loadRun_fsm (n : Half) (f : FsmState) : (loadRun n f s).fsm = f := rfl
@[simp] theorem loadRun_op (n : Half) (f : FsmState) : (loadRun n f s).op = s.op := rfl
@[simp] theorem loadRun_amemSize (n : Half) (f : FsmState) : (loadRun n f s).amemSize = s.amemSize := rfl
@[simp] theorem loadRun_amem (n : Half) (f : FsmState) : (loadRun n f s).amem = s.amem := rfl
@[simp] theorem loadRun_grid (n : Half) (f : FsmState) : (loadRun n f s).grid = s.grid := rfl
@[simp] theorem loadRun_events (n : Half) (f : FsmState) : (loadRun n f s).events = s.events := rfl
@[simp] theorem loadRun_response (n : Half) (f : FsmState) : (loadRun n f s).response = s.response := rfl

/-! ### countRun -/

@[simp] theorem countRun_irqEn : (countRun s).irqEn = s.irqEn := rfl
@[simp] theorem countRun_busy : (countRun s).busy = s.busy := rfl
@[simp] theorem countRun_done : (countRun s).done = s.done := rfl
@[simp] theorem countRun_loaded : (countRun s).loaded = s.loaded := rfl
@[simp] theorem countRun_hostViol : (countRun s).hostViol = s.hostViol := rfl
@[simp] theorem countRun_err : (countRun s).err = s.err := rfl
@[simp] theorem countRun_nfReason : (countRun s).nfReason = s.nfReason := rfl
@[simp] theorem countRun_shortTail : (countRun s).shortTail = s.shortTail := rfl
@[simp] theorem countRun_runClipped : (countRun s).runClipped = s.runClipped := rfl
@[simp] theorem countRun_archiveLen : (countRun s).archiveLen = s.archiveLen := rfl
@[simp] theorem countRun_signature : (countRun s).signature = s.signature := rfl
@[simp] theorem countRun_spriteCount : (countRun s).spriteCount = s.spriteCount := rfl
@[simp] theorem countRun_spriteId : (countRun s).spriteId = s.spriteId := rfl
@[simp] theorem countRun_blkStart : (countRun s).blkStart = s.blkStart := rfl
@[simp] theorem countRun_blkLen : (countRun s).blkLen = s.blkLen := rfl
@[simp] theorem countRun_cursor : (countRun s).cursor = s.cursor := rfl
@[simp] theorem countRun_run : (countRun s).run = s.run - 1 := rfl
@[simp] theorem countRun_pixcount : (countRun s).pixcount = s.pixcount := rfl
@[simp] theorem countRun_col : (countRun s).col = s.col := rfl
@[simp] theorem countRun_row : (countRun s).row = s.row := rfl
@[simp] theorem countRun_full : (countRun s).full = s.full := rfl
@[simp] theorem countRun_fsm : (countRun s).fsm = s.fsm := rfl
@[simp] theorem countRun_op : (countRun s).op = s.op := rfl
@[simp] theorem countRun_amemSize : (countRun s).amemSize = s.amemSize := rfl
@[simp] theorem countRun_amem : (countRun s).amem = s.amem := rfl
@[simp] theorem countRun_grid : (countRun s).grid = s.grid := rfl
@[simp] theorem countRun_events : (countRun s).events = s.events := rfl
@[simp] theorem countRun_response : (countRun s).response = s.response := rfl

/-! ### clipRun -/

@[simp] theorem clipRun_irqEn (f : FsmState) : (clipRun f s).irqEn = s.irqEn := rfl
@[simp] theorem clipRun_busy (f : FsmState) : (clipRun f s).busy = s.busy := rfl
@[simp] theorem clipRun_done (f : FsmState) : (clipRun f s).done = s.done := rfl
@[simp] theorem clipRun_loaded (f : FsmState) : (clipRun f s).loaded = s.loaded := rfl
@[simp] theorem clipRun_hostViol (f : FsmState) : (clipRun f s).hostViol = s.hostViol := rfl
@[simp] theorem clipRun_err (f : FsmState) : (clipRun f s).err = s.err := rfl
@[simp] theorem clipRun_nfReason (f : FsmState) : (clipRun f s).nfReason = s.nfReason := rfl
@[simp] theorem clipRun_shortTail (f : FsmState) : (clipRun f s).shortTail = s.shortTail := rfl
@[simp] theorem clipRun_runClipped (f : FsmState) : (clipRun f s).runClipped = true := rfl
@[simp] theorem clipRun_archiveLen (f : FsmState) : (clipRun f s).archiveLen = s.archiveLen := rfl
@[simp] theorem clipRun_signature (f : FsmState) : (clipRun f s).signature = s.signature := rfl
@[simp] theorem clipRun_spriteCount (f : FsmState) : (clipRun f s).spriteCount = s.spriteCount := rfl
@[simp] theorem clipRun_spriteId (f : FsmState) : (clipRun f s).spriteId = s.spriteId := rfl
@[simp] theorem clipRun_blkStart (f : FsmState) : (clipRun f s).blkStart = s.blkStart := rfl
@[simp] theorem clipRun_blkLen (f : FsmState) : (clipRun f s).blkLen = s.blkLen := rfl
@[simp] theorem clipRun_cursor (f : FsmState) : (clipRun f s).cursor = s.cursor := rfl
@[simp] theorem clipRun_run (f : FsmState) : (clipRun f s).run = 0 := rfl
@[simp] theorem clipRun_pixcount (f : FsmState) : (clipRun f s).pixcount = s.pixcount := rfl
@[simp] theorem clipRun_col (f : FsmState) : (clipRun f s).col = s.col := rfl
@[simp] theorem clipRun_row (f : FsmState) : (clipRun f s).row = s.row := rfl
@[simp] theorem clipRun_full (f : FsmState) : (clipRun f s).full = s.full := rfl
@[simp] theorem clipRun_fsm (f : FsmState) : (clipRun f s).fsm = f := rfl
@[simp] theorem clipRun_op (f : FsmState) : (clipRun f s).op = s.op := rfl
@[simp] theorem clipRun_amemSize (f : FsmState) : (clipRun f s).amemSize = s.amemSize := rfl
@[simp] theorem clipRun_amem (f : FsmState) : (clipRun f s).amem = s.amem := rfl
@[simp] theorem clipRun_grid (f : FsmState) : (clipRun f s).grid = s.grid := rfl
@[simp] theorem clipRun_events (f : FsmState) : (clipRun f s).events = s.events := rfl
@[simp] theorem clipRun_response (f : FsmState) : (clipRun f s).response = s.response := rfl

/-! ### cutRun -/

@[simp] theorem cutRun_irqEn : (cutRun s).irqEn = s.irqEn := rfl
@[simp] theorem cutRun_busy : (cutRun s).busy = s.busy := rfl
@[simp] theorem cutRun_done : (cutRun s).done = s.done := rfl
@[simp] theorem cutRun_loaded : (cutRun s).loaded = s.loaded := rfl
@[simp] theorem cutRun_hostViol : (cutRun s).hostViol = s.hostViol := rfl
@[simp] theorem cutRun_err : (cutRun s).err = s.err := rfl
@[simp] theorem cutRun_nfReason : (cutRun s).nfReason = s.nfReason := rfl
@[simp] theorem cutRun_shortTail : (cutRun s).shortTail = true := rfl
@[simp] theorem cutRun_runClipped : (cutRun s).runClipped = s.runClipped := rfl
@[simp] theorem cutRun_archiveLen : (cutRun s).archiveLen = s.archiveLen := rfl
@[simp] theorem cutRun_signature : (cutRun s).signature = s.signature := rfl
@[simp] theorem cutRun_spriteCount : (cutRun s).spriteCount = s.spriteCount := rfl
@[simp] theorem cutRun_spriteId : (cutRun s).spriteId = s.spriteId := rfl
@[simp] theorem cutRun_blkStart : (cutRun s).blkStart = s.blkStart := rfl
@[simp] theorem cutRun_blkLen : (cutRun s).blkLen = s.blkLen := rfl
@[simp] theorem cutRun_cursor : (cutRun s).cursor = s.cursor := rfl
@[simp] theorem cutRun_run : (cutRun s).run = 0 := rfl
@[simp] theorem cutRun_pixcount : (cutRun s).pixcount = s.pixcount := rfl
@[simp] theorem cutRun_col : (cutRun s).col = s.col := rfl
@[simp] theorem cutRun_row : (cutRun s).row = s.row := rfl
@[simp] theorem cutRun_full : (cutRun s).full = s.full := rfl
@[simp] theorem cutRun_fsm : (cutRun s).fsm = .fetchT := rfl
@[simp] theorem cutRun_op : (cutRun s).op = s.op := rfl
@[simp] theorem cutRun_amemSize : (cutRun s).amemSize = s.amemSize := rfl
@[simp] theorem cutRun_amem : (cutRun s).amem = s.amem := rfl
@[simp] theorem cutRun_grid : (cutRun s).grid = s.grid := rfl
@[simp] theorem cutRun_events : (cutRun s).events = s.events := rfl
@[simp] theorem cutRun_response : (cutRun s).response = s.response := rfl

/-! ### goTo -/

@[simp] theorem goTo_irqEn (f : FsmState) : (goTo f s).irqEn = s.irqEn := rfl
@[simp] theorem goTo_busy (f : FsmState) : (goTo f s).busy = s.busy := rfl
@[simp] theorem goTo_done (f : FsmState) : (goTo f s).done = s.done := rfl
@[simp] theorem goTo_loaded (f : FsmState) : (goTo f s).loaded = s.loaded := rfl
@[simp] theorem goTo_hostViol (f : FsmState) : (goTo f s).hostViol = s.hostViol := rfl
@[simp] theorem goTo_err (f : FsmState) : (goTo f s).err = s.err := rfl
@[simp] theorem goTo_nfReason (f : FsmState) : (goTo f s).nfReason = s.nfReason := rfl
@[simp] theorem goTo_shortTail (f : FsmState) : (goTo f s).shortTail = s.shortTail := rfl
@[simp] theorem goTo_runClipped (f : FsmState) : (goTo f s).runClipped = s.runClipped := rfl
@[simp] theorem goTo_archiveLen (f : FsmState) : (goTo f s).archiveLen = s.archiveLen := rfl
@[simp] theorem goTo_signature (f : FsmState) : (goTo f s).signature = s.signature := rfl
@[simp] theorem goTo_spriteCount (f : FsmState) : (goTo f s).spriteCount = s.spriteCount := rfl
@[simp] theorem goTo_spriteId (f : FsmState) : (goTo f s).spriteId = s.spriteId := rfl
@[simp] theorem goTo_blkStart (f : FsmState) : (goTo f s).blkStart = s.blkStart := rfl
@[simp] theorem goTo_blkLen (f : FsmState) : (goTo f s).blkLen = s.blkLen := rfl
@[simp] theorem goTo_cursor (f : FsmState) : (goTo f s).cursor = s.cursor := rfl
@[simp] theorem goTo_run (f : FsmState) : (goTo f s).run = s.run := rfl
@[simp] theorem goTo_pixcount (f : FsmState) : (goTo f s).pixcount = s.pixcount := rfl
@[simp] theorem goTo_col (f : FsmState) : (goTo f s).col = s.col := rfl
@[simp] theorem goTo_row (f : FsmState) : (goTo f s).row = s.row := rfl
@[simp] theorem goTo_full (f : FsmState) : (goTo f s).full = s.full := rfl
@[simp] theorem goTo_fsm (f : FsmState) : (goTo f s).fsm = f := rfl
@[simp] theorem goTo_op (f : FsmState) : (goTo f s).op = s.op := rfl
@[simp] theorem goTo_amemSize (f : FsmState) : (goTo f s).amemSize = s.amemSize := rfl
@[simp] theorem goTo_amem (f : FsmState) : (goTo f s).amem = s.amem := rfl
@[simp] theorem goTo_grid (f : FsmState) : (goTo f s).grid = s.grid := rfl
@[simp] theorem goTo_events (f : FsmState) : (goTo f s).events = s.events := rfl
@[simp] theorem goTo_response (f : FsmState) : (goTo f s).response = s.response := rfl

/-! ### passRgb -/

@[simp] theorem passRgb_irqEn : (passRgb s).irqEn = s.irqEn := rfl
@[simp] theorem passRgb_busy : (passRgb s).busy = s.busy := rfl
@[simp] theorem passRgb_done : (passRgb s).done = s.done := rfl
@[simp] theorem passRgb_loaded : (passRgb s).loaded = s.loaded := rfl
@[simp] theorem passRgb_hostViol : (passRgb s).hostViol = s.hostViol := rfl
@[simp] theorem passRgb_err : (passRgb s).err = s.err := rfl
@[simp] theorem passRgb_nfReason : (passRgb s).nfReason = s.nfReason := rfl
@[simp] theorem passRgb_shortTail : (passRgb s).shortTail = s.shortTail := rfl
@[simp] theorem passRgb_runClipped : (passRgb s).runClipped = s.runClipped := rfl
@[simp] theorem passRgb_archiveLen : (passRgb s).archiveLen = s.archiveLen := rfl
@[simp] theorem passRgb_signature : (passRgb s).signature = s.signature := rfl
@[simp] theorem passRgb_spriteCount : (passRgb s).spriteCount = s.spriteCount := rfl
@[simp] theorem passRgb_spriteId : (passRgb s).spriteId = s.spriteId := rfl
@[simp] theorem passRgb_blkStart : (passRgb s).blkStart = s.blkStart := rfl
@[simp] theorem passRgb_blkLen : (passRgb s).blkLen = s.blkLen := rfl
@[simp] theorem passRgb_cursor : (passRgb s).cursor = s.cursor + 3 := rfl
@[simp] theorem passRgb_run : (passRgb s).run = s.run := rfl
@[simp] theorem passRgb_pixcount : (passRgb s).pixcount = s.pixcount := rfl
@[simp] theorem passRgb_col : (passRgb s).col = s.col := rfl
@[simp] theorem passRgb_row : (passRgb s).row = s.row := rfl
@[simp] theorem passRgb_full : (passRgb s).full = s.full := rfl
@[simp] theorem passRgb_fsm : (passRgb s).fsm = s.fsm := rfl
@[simp] theorem passRgb_op : (passRgb s).op = s.op := rfl
@[simp] theorem passRgb_amemSize : (passRgb s).amemSize = s.amemSize := rfl
@[simp] theorem passRgb_amem : (passRgb s).amem = s.amem := rfl
@[simp] theorem passRgb_grid : (passRgb s).grid = s.grid := rfl
@[simp] theorem passRgb_events : (passRgb s).events = s.events := rfl
@[simp] theorem passRgb_response : (passRgb s).response = s.response := rfl

/-! ### amemStore -/

@[simp] theorem amemStore_irqEn (a : Nat) (b : Byte) : (amemStore a b s).irqEn = s.irqEn := rfl
@[simp] theorem amemStore_busy (a : Nat) (b : Byte) : (amemStore a b s).busy = s.busy := rfl
@[simp] theorem amemStore_done (a : Nat) (b : Byte) : (amemStore a b s).done = s.done := rfl
@[simp] theorem amemStore_loaded (a : Nat) (b : Byte) : (amemStore a b s).loaded = s.loaded := rfl
@[simp] theorem amemStore_hostViol (a : Nat) (b : Byte) : (amemStore a b s).hostViol = s.hostViol := rfl
@[simp] theorem amemStore_err (a : Nat) (b : Byte) : (amemStore a b s).err = s.err := rfl
@[simp] theorem amemStore_nfReason (a : Nat) (b : Byte) : (amemStore a b s).nfReason = s.nfReason := rfl
@[simp] theorem amemStore_shortTail (a : Nat) (b : Byte) : (amemStore a b s).shortTail = s.shortTail := rfl
@[simp] theorem amemStore_runClipped (a : Nat) (b : Byte) : (amemStore a b s).runClipped = s.runClipped := rfl
@[simp] theorem amemStore_archiveLen (a : Nat) (b : Byte) : (amemStore a b s).archiveLen = s.archiveLen := rfl
@[simp] theorem amemStore_signature (a : Nat) (b : Byte) : (amemStore a b s).signature = s.signature := rfl
@[simp] theorem amemStore_spriteCount (a : Nat) (b : Byte) : (amemStore a b s).spriteCount = s.spriteCount := rfl
@[simp] theorem amemStore_spriteId (a : Nat) (b : Byte) : (amemStore a b s).spriteId = s.spriteId := rfl
@[simp] theorem amemStore_blkStart (a : Nat) (b : Byte) : (amemStore a b s).blkStart = s.blkStart := rfl
@[simp] theorem amemStore_blkLen (a : Nat) (b : Byte) : (amemStore a b s).blkLen = s.blkLen := rfl
@[simp] theorem amemStore_cursor (a : Nat) (b : Byte) : (amemStore a b s).cursor = s.cursor := rfl
@[simp] theorem amemStore_run (a : Nat) (b : Byte) : (amemStore a b s).run = s.run := rfl
@[simp] theorem amemStore_pixcount (a : Nat) (b : Byte) : (amemStore a b s).pixcount = s.pixcount := rfl
@[simp] theorem amemStore_col (a : Nat) (b : Byte) : (amemStore a b s).col = s.col := rfl
@[simp] theorem amemStore_row (a : Nat) (b : Byte) : (amemStore a b s).row = s.row := rfl
@[simp] theorem amemStore_full (a : Nat) (b : Byte) : (amemStore a b s).full = s.full := rfl
@[simp] theorem amemStore_fsm (a : Nat) (b : Byte) : (amemStore a b s).fsm = s.fsm := rfl
@[simp] theorem amemStore_op (a : Nat) (b : Byte) : (amemStore a b s).op = s.op := rfl
@[simp] theorem amemStore_amemSize (a : Nat) (b : Byte) : (amemStore a b s).amemSize = s.amemSize := rfl
@[simp] theorem amemStore_amem (a : Nat) (b : Byte) : (amemStore a b s).amem = sparseSet s.amem a b := rfl
@[simp] theorem amemStore_grid (a : Nat) (b : Byte) : (amemStore a b s).grid = s.grid := rfl
@[simp] theorem amemStore_events (a : Nat) (b : Byte) : (amemStore a b s).events = s.events := rfl
@[simp] theorem amemStore_response (a : Nat) (b : Byte) : (amemStore a b s).response = s.response := rfl

/-! ### gridWrite -/

@[simp] theorem gridWrite_irqEn (k : Nat) (v : Word) : (gridWrite k v s).irqEn = s.irqEn := rfl
@[simp] theorem gridWrite_busy (k : Nat) (v : Word) : (gridWrite k v s).busy = s.busy := rfl
@[simp] theorem gridWrite_done (k : Nat) (v : Word) : (gridWrite k v s).done = s.done := rfl
@[simp] theorem gridWrite_loaded (k : Nat) (v : Word) : (gridWrite k v s).loaded = s.loaded := rfl
@[simp] theorem gridWrite_hostViol (k : Nat) (v : Word) : (gridWrite k v s).hostViol = s.hostViol := rfl
@[simp] theorem gridWrite_err (k : Nat) (v : Word) : (gridWrite k v s).err = s.err := rfl
@[simp] theorem gridWrite_nfReason (k : Nat) (v : Word) : (gridWrite k v s).nfReason = s.nfReason := rfl
@[simp] theorem gridWrite_shortTail (k : Nat) (v : Word) : (gridWrite k v s).shortTail = s.shortTail := rfl
@[simp] theorem gridWrite_runClipped (k : Nat) (v : Word) : (gridWrite k v s).runClipped = s.runClipped := rfl
@[simp] theorem gridWrite_archiveLen (k : Nat) (v : Word) : (gridWrite k v s).archiveLen = s.archiveLen := rfl
@[simp] theorem gridWrite_signature (k : Nat) (v : Word) : (gridWrite k v s).signature = s.signature := rfl
@[simp] theorem gridWrite_spriteCount (k : Nat) (v : Word) : (gridWrite k v s).spriteCount = s.spriteCount := rfl
@[simp] theorem gridWrite_spriteId (k : Nat) (v : Word) : (gridWrite k v s).spriteId = s.spriteId := rfl
@[simp] theorem gridWrite_blkStart (k : Nat) (v : Word) : (gridWrite k v s).blkStart = s.blkStart := rfl
@[simp] theorem gridWrite_blkLen (k : Nat) (v : Word) : (gridWrite k v s).blkLen = s.blkLen := rfl
@[simp] theorem gridWrite_cursor (k : Nat) (v : Word) : (gridWrite k v s).cursor = s.cursor := rfl
@[simp] theorem gridWrite_run (k : Nat) (v : Word) : (gridWrite k v s).run = s.run := rfl
@[simp] theorem gridWrite_pixcount (k : Nat) (v : Word) : (gridWrite k v s).pixcount = s.pixcount := rfl
@[simp] theorem gridWrite_col (k : Nat) (v : Word) : (gridWrite k v s).col = s.col := rfl
@[simp] theorem gridWrite_row (k : Nat) (v : Word) : (gridWrite k v s).row = s.row := rfl
@[simp] theorem gridWrite_full (k : Nat) (v : Word) : (gridWrite k v s).full = s.full := rfl
@[simp] theorem gridWrite_fsm (k : Nat) (v : Word) : (gridWrite k v s).fsm = s.fsm := rfl
@[simp] theorem gridWrite_op (k : Nat) (v : Word) : (gridWrite k v s).op = s.op := rfl
@[simp] theorem gridWrite_amemSize (k : Nat) (v : Word) : (gridWrite k v s).amemSize = s.amemSize := rfl
@[simp] theorem gridWrite_amem (k : Nat) (v : Word) : (gridWrite k v s).amem = s.amem := rfl
@[simp] theorem gridWrite_grid (k : Nat) (v : Word) : (gridWrite k v s).grid = sparseSet s.grid k v := rfl
@[simp] theorem gridWrite_events (k : Nat) (v : Word) : (gridWrite k v s).events = s.events := rfl
@[simp] theorem gridWrite_response (k : Nat) (v : Word) : (gridWrite k v s).response = s.response := rfl

/-! ### respond -/

@[simp] theorem respond_irqEn (r : Response) : (respond r s).irqEn = s.irqEn := rfl
@[simp] theorem respond_busy (r : Response) : (respond r s).busy = s.busy := rfl
@[simp] theorem respond_done (r : Response) : (respond r s).done = s.done := rfl
@[simp] theorem respond_loaded (r : Response) : (respond r s).loaded = s.loaded := rfl
@[simp] theorem respond_hostViol (r : Response) : (respond r s).hostViol = s.hostViol := rfl
@[simp] theorem respond_err (r : Response) : (respond r s).err = s.err := rfl
@[simp] theorem respond_nfReason (r : Response) : (respond r s).nfReason = s.nfReason := rfl
@[simp] theorem respond_shortTail (r : Response) : (respond r s).shortTail = s.shortTail := rfl
@[simp] theorem respond_runClipped (r : Response) : (respond r s).runClipped = s.runClipped := rfl
@[simp] theorem respond_archiveLen (r : Response) : (respond r s).archiveLen = s.archiveLen := rfl
@[simp] theorem respond_signature (r : Response) : (respond r s).signature = s.signature := rfl
@[simp] theorem respond_spriteCount (r : Response) : (respond r s).spriteCount = s.spriteCount := rfl
@[simp] theorem respond_spriteId (r : Response) : (respond r s).spriteId = s.spriteId := rfl
@[simp] theorem respond_blkStart (r : Response) : (respond r s).blkStart = s.blkStart := rfl
@[simp] theorem respond_blkLen (r : Response) : (respond r s).blkLen = s.blkLen := rfl
@[simp] theorem respond_cursor (r : Response) : (respond r s).cursor = s.cursor := rfl
@[simp] theorem respond_run (r : Response) : (respond r s).run = s.run := rfl
@[simp] theorem respond_pixcount (r : Response) : (respond r s).pixcount = s.pixcount := rfl
@[simp] theorem respond_col (r : Response) : (respond r s).col = s.col := rfl
@[simp] theorem respond_row (r : Response) : (respond r s).row = s.row := rfl
@[simp] theorem respond_full (r : Response) : (respond r s).full = s.full := rfl
@[simp] theorem respond_fsm (r : Response) : (respond r s).fsm = s.fsm := rfl
@[simp] theorem respond_op (r : Response) : (respond r s).op = s.op := rfl
@[simp] theorem respond_amemSize (r : Response) : (respond r s).amemSize = s.amemSize := rfl
@[simp] theorem respond_amem (r : Response) : (respond r s).amem = s.amem := rfl
@[simp] theorem respond_grid (r : Response) : (respond r s).grid = s.grid := rfl
@[simp] theorem respond_events (r : Response) : (respond r s).events = s.events := rfl
@[simp] theorem respond_response (r : Response) : (respond r s).response = some r := rfl

/-! ### reschedule -/

@[simp] theorem reschedule_irqEn (e : Event) : (reschedule e s).irqEn = s.irqEn := rfl
@[simp] theorem reschedule_busy (e : Event) : (reschedule e s).busy = s.busy := rfl
@[simp] theorem reschedule_done (e : Event) : (reschedule e s).done = s.done := rfl
@[simp] theorem reschedule_loaded (e : Event) : (reschedule e s).loaded = s.loaded := rfl
@[simp] theorem reschedule_hostViol (e : Event) : (reschedule e s).hostViol = s.hostViol := rfl
@[simp] theorem reschedule_err (e : Event) : (reschedule e s).err = s.err := rfl
@[simp] theorem reschedule_nfReason (e : Event) : (reschedule e s).nfReason = s.nfReason := rfl
@[simp] theorem reschedule_shortTail (e : Event) : (reschedule e s).shortTail = s.shortTail := rfl
@[simp] theorem reschedule_runClipped (e : Event) : (reschedule e s).runClipped = s.runClipped := rfl
@[simp] theorem reschedule_archiveLen (e : Event) : (reschedule e s).archiveLen = s.archiveLen := rfl
@[simp] theorem reschedule_signature (e : Event) : (reschedule e s).signature = s.signature := rfl
@[simp] theorem reschedule_spriteCount (e : Event) : (reschedule e s).spriteCount = s.spriteCount := rfl
@[simp] theorem reschedule_spriteId (e : Event) : (reschedule e s).spriteId = s.spriteId := rfl
@[simp] theorem reschedule_blkStart (e : Event) : (reschedule e s).blkStart = s.blkStart := rfl
@[simp] theorem reschedule_blkLen (e : Event) : (reschedule e s).blkLen = s.blkLen := rfl
@[simp] theorem reschedule_cursor (e : Event) : (reschedule e s).cursor = s.cursor := rfl
@[simp] theorem reschedule_run (e : Event) : (reschedule e s).run = s.run := rfl
@[simp] theorem reschedule_pixcount (e : Event) : (reschedule e s).pixcount = s.pixcount := rfl
@[simp] theorem reschedule_col (e : Event) : (reschedule e s).col = s.col := rfl
@[simp] theorem reschedule_row (e : Event) : (reschedule e s).row = s.row := rfl
@[simp] theorem reschedule_full (e : Event) : (reschedule e s).full = s.full := rfl
@[simp] theorem reschedule_fsm (e : Event) : (reschedule e s).fsm = s.fsm := rfl
@[simp] theorem reschedule_op (e : Event) : (reschedule e s).op = s.op := rfl
@[simp] theorem reschedule_amemSize (e : Event) : (reschedule e s).amemSize = s.amemSize := rfl
@[simp] theorem reschedule_amem (e : Event) : (reschedule e s).amem = s.amem := rfl
@[simp] theorem reschedule_grid (e : Event) : (reschedule e s).grid = s.grid := rfl
@[simp] theorem reschedule_events (e : Event) : (reschedule e s).events = e :: s.events := rfl
@[simp] theorem reschedule_response (e : Event) : (reschedule e s).response = s.response := rfl

/-! ### writePixel -/

@[simp] theorem writePixel_irqEn (v : Word) : (writePixel v s).irqEn = s.irqEn := rfl
@[simp] theorem writePixel_busy (v : Word) : (writePixel v s).busy = s.busy := rfl
@[simp] theorem writePixel_done (v : Word) : (writePixel v s).done = s.done := rfl
@[simp] theorem writePixel_loaded (v : Word) : (writePixel v s).loaded = s.loaded := rfl
@[simp] theorem writePixel_hostViol (v : Word) : (writePixel v s).hostViol = s.hostViol := rfl
@[simp] theorem writePixel_err (v : Word) : (writePixel v s).err = s.err := rfl
@[simp] theorem writePixel_nfReason (v : Word) : (writePixel v s).nfReason = s.nfReason := rfl
@[simp] theorem writePixel_shortTail (v : Word) : (writePixel v s).shortTail = s.shortTail := rfl
@[simp] theorem writePixel_runClipped (v : Word) : (writePixel v s).runClipped = s.runClipped := rfl
@[simp] theorem writePixel_archiveLen (v : Word) : (writePixel v s).archiveLen = s.archiveLen := rfl
@[simp] theorem writePixel_signature (v : Word) : (writePixel v s).signature = s.signature := rfl
@[simp] theorem writePixel_spriteCount (v : Word) : (writePixel v s).spriteCount = s.spriteCount := rfl
@[simp] theorem writePixel_spriteId (v : Word) : (writePixel v s).spriteId = s.spriteId := rfl
@[simp] theorem writePixel_blkStart (v : Word) : (writePixel v s).blkStart = s.blkStart := rfl
@[simp] theorem writePixel_blkLen (v : Word) : (writePixel v s).blkLen = s.blkLen := rfl
@[simp] theorem writePixel_cursor (v : Word) : (writePixel v s).cursor = s.cursor := rfl
@[simp] theorem writePixel_run (v : Word) : (writePixel v s).run = s.run := rfl
@[simp] theorem writePixel_pixcount (v : Word) : (writePixel v s).pixcount = s.pixcount + 1 := rfl
@[simp] theorem writePixel_col (v : Word) : (writePixel v s).col = if s.col.toNat = 31 then 0 else s.col + 1 := rfl
@[simp] theorem writePixel_row (v : Word) :
    (writePixel v s).row = if s.col.toNat = 31 then (if s.row.toNat = 31 then 0 else s.row + 1) else s.row := rfl
@[simp] theorem writePixel_full (v : Word) :
    (writePixel v s).full = if s.col.toNat = 31 ∧ s.row.toNat = 31 then true else s.full := rfl
@[simp] theorem writePixel_fsm (v : Word) : (writePixel v s).fsm = s.fsm := rfl
@[simp] theorem writePixel_op (v : Word) : (writePixel v s).op = s.op := rfl
@[simp] theorem writePixel_amemSize (v : Word) : (writePixel v s).amemSize = s.amemSize := rfl
@[simp] theorem writePixel_amem (v : Word) : (writePixel v s).amem = s.amem := rfl
@[simp] theorem writePixel_grid (v : Word) : (writePixel v s).grid = sparseSet s.grid (gridIndex s) v := rfl
@[simp] theorem writePixel_events (v : Word) : (writePixel v s).events = s.events := rfl
@[simp] theorem writePixel_response (v : Word) : (writePixel v s).response = s.response := rfl

end Sys2Proof.Machine
end

