-- ==== Sys2Proof/Laws/Writer.lean ====
section
/-! SUPPORT. The pixel writer (44_grid_writer.md): where a pixel goes, what it leaves alone, and how the position moves. -/

namespace Sys2Proof.Machine

/-- ROW, COL, FULL and PIXCOUNT tell the same position (10_state.md R39 item 2). -/
structure Positioned (s : State) : Prop where
  position : s.pixcount.toNat = 1024 * s.full.toNat + 32 * s.row.toNat + s.col.toNat
  fullOrigin : s.full = true → s.row = 0 ∧ s.col = 0

namespace Positioned

variable {s : State}

theorem le (h : Positioned s) : s.pixcount.toNat ≤ Config.gridPixels := by
  have hp := h.position
  have hr := s.row.isLt
  have hc := s.col.isLt
  cases hf : s.full with
  | false => rw [hf] at hp; simp only [Bool.toNat_false, Config.gridPixels] at hp ⊢; omega
  | true =>
    obtain ⟨h1, h2⟩ := h.fullOrigin hf
    rw [hf, h1, h2] at hp
    simp [Config.gridPixels] at hp ⊢
    omega

/-- Below the budget FULL is 0, so the precondition of write_pixel holds and the next pixel goes to word PIXCOUNT (R110). -/
theorem index (h : Positioned s) (hlt : s.pixcount.toNat < Config.gridPixels) :
    s.full = false ∧ gridIndex s = s.pixcount.toNat := by
  have hp := h.position
  cases hf : s.full with
  | true => rw [hf] at hp; simp only [Bool.toNat_true, Config.gridPixels] at hp hlt; omega
  | false => rw [hf] at hp; simp only [Bool.toNat_false] at hp; exact ⟨rfl, by rw [gridIndex, hp]; omega⟩

/-- The position after a pixel below the budget. -/
theorem writePixel (h : Positioned s) (hlt : s.pixcount.toNat < Config.gridPixels) (v : Word) :
    Positioned (writePixel v s) ∧ (Machine.writePixel v s).pixcount.toNat = s.pixcount.toNat + 1 := by
  obtain ⟨hf, -⟩ := h.index hlt
  have hp := h.position
  have hr := s.row.isLt
  have hc := s.col.isLt
  simp only [Config.gridPixels] at hlt
  have hn : (s.pixcount + 1).toNat = s.pixcount.toNat + 1 := by
    rw [BitVec.toNat_add]; simp; omega
  have hcol : s.col.toNat ≠ 31 → (s.col + 1).toNat = s.col.toNat + 1 := by
    intro hne; rw [BitVec.toNat_add]; simp; omega
  have hrow : s.row.toNat ≠ 31 → (s.row + 1).toNat = s.row.toNat + 1 := by
    intro hne; rw [BitVec.toNat_add]; simp; omega
  rw [hf] at hp
  simp only [Bool.toNat_false, Nat.mul_zero, Nat.zero_add] at hp
  refine ⟨⟨?_, ?_⟩, by rw [writePixel_pixcount, hn]⟩
  · simp only [writePixel_pixcount, writePixel_full, writePixel_row, writePixel_col, hn, hf]
    by_cases h1 : s.col.toNat = 31
    · by_cases h2 : s.row.toNat = 31
      · simp [h1, h2]; omega
      · have := hrow h2; simp [h1, h2]; omega
    · have := hcol h1; simp [h1]; omega
  · simp only [writePixel_full, writePixel_row, writePixel_col, hf]
    by_cases h1 : s.col.toNat = 31
    · by_cases h2 : s.row.toNat = 31
      · simp [h1, h2]
      · simp [h1, h2]
    · simp [h1]

end Positioned

/-- A pixel is stored at the writer's position, and every other word stays (R110). -/
theorem gridWord_writePixel (v : Word) (s : State) (k : Nat) :
    gridWord (writePixel v s) k = if k = gridIndex s then some v else gridWord s k :=
  sparseGet_sparseSet s.grid (gridIndex s) k v

end Sys2Proof.Machine
end

