-- ==== Sys2Proof/Laws/Engine.lean ====
section
/-! SUPPORT. The engine: what reading each token comes to inside the block's range, one lemma per control state that says
everything its step can do (43_rle_decoder.md R99 to R102, 44_grid_writer.md R113), and what `settle` can answer. -/

namespace Sys2Proof.Machine

/-! ### Reading a token inside the range -/

/-- Block bytes inside the range are read (R92). -/
theorem blkBytes_of_le (s : State) (h : RangeOk s) (k n : Nat) (hk : k + n ≤ s.blkLen.toNat) :
    blkBytes s k n = some ((List.range n).map fun i => blockByte s (k + i)) := by
  rw [blkBytes, amemBytes_of_le s _ n (by have := h.1; have := h.2; omega)]
  congr 1
  apply List.map_congr_left
  intro i _
  simp only [blockByte]
  congr 1
  omega

theorem runToken_trun (s : State) (h : RangeOk s) (hc : s.cursor.toNat + 2 ≤ s.blkLen.toNat) :
    runToken .trun s = .next (loadRun (BitVec.ofNat 16 (ref16 (blockByte s) s.cursor.toNat)) .emitT s) := by
  simp [runToken, fetchToken, Slot.length, blkBytes_of_le s h _ 2 hc, List.range_succ, decode, leNat, exec, execTrun, ref16,
    Except.toOption]

theorem runToken_crun (s : State) (h : RangeOk s) (hc : s.cursor.toNat + 2 ≤ s.blkLen.toNat) :
    runToken .crun s = .next (loadRun (BitVec.ofNat 16 (ref16 (blockByte s) s.cursor.toNat)) .emitC s) := by
  simp [runToken, fetchToken, Slot.length, blkBytes_of_le s h _ 2 hc, List.range_succ, decode, leNat, exec, execCrun, ref16,
    Except.toOption]

/-- The pixel that the RGB token at the cursor stands for. -/
def rgbAt (s : State) : Word :=
  px (blockByte s s.cursor.toNat) (blockByte s (s.cursor.toNat + 1)) (blockByte s (s.cursor.toNat + 2)) 255

theorem runToken_rgb (s : State) (h : RangeOk s) (hc : s.cursor.toNat + 3 ≤ s.blkLen.toNat) :
    runToken .rgb s = .next (countRun (passRgb (writePixel (rgbAt s) s))) := by
  simp [runToken, fetchToken, Slot.length, blkBytes_of_le s h _ 3 hc, List.range_succ, decode, exec, execRgb, rgbAt,
    Except.toOption]

/-! ### What a step can do, without a premise -/

/-- A TRUN that is read loads some run length; otherwise the read port faults. -/
theorem runToken_trun_cases (s : State) :
    (∃ n, runToken .trun s = .next (loadRun n .emitT s)) ∨ runToken .trun s = .fault .amemRange := by
  unfold runToken
  split
  · rename_i i hi
    left
    simp only [fetchToken, Option.bind_eq_some_iff, Option.map_eq_some_iff] at hi
    obtain ⟨bs, -, p, hp, rfl⟩ := hi
    match bs, hp with
    | b0 :: b1 :: rest, hp =>
      simp only [decode, Except.toOption, Option.some.injEq] at hp
      subst hp
      exact ⟨_, rfl⟩
    | [_], hp => simp [decode, Except.toOption] at hp
    | [], hp => simp [decode, Except.toOption] at hp
  · exact .inr rfl

theorem runToken_crun_cases (s : State) :
    (∃ n, runToken .crun s = .next (loadRun n .emitC s)) ∨ runToken .crun s = .fault .amemRange := by
  unfold runToken
  split
  · rename_i i hi
    left
    simp only [fetchToken, Option.bind_eq_some_iff, Option.map_eq_some_iff] at hi
    obtain ⟨bs, -, p, hp, rfl⟩ := hi
    match bs, hp with
    | b0 :: b1 :: rest, hp =>
      simp only [decode, Except.toOption, Option.some.injEq] at hp
      subst hp
      exact ⟨_, rfl⟩
    | [_], hp => simp [decode, Except.toOption] at hp
    | [], hp => simp [decode, Except.toOption] at hp
  · exact .inr rfl

theorem runToken_rgb_cases (s : State) :
    (∃ r g b : Byte, runToken .rgb s = .next (countRun (passRgb (writePixel (px r g b 255) s)))) ∨
      runToken .rgb s = .fault .amemRange := by
  unfold runToken
  split
  · rename_i i hi
    left
    simp only [fetchToken, Option.bind_eq_some_iff, Option.map_eq_some_iff] at hi
    obtain ⟨bs, -, p, hp, rfl⟩ := hi
    match bs, hp with
    | r :: g :: b :: rest, hp =>
      simp only [decode, Except.toOption, Option.some.injEq] at hp
      subst hp
      exact ⟨r, g, b, rfl⟩
    | [_, _], hp => simp [decode, Except.toOption] at hp
    | [_], hp => simp [decode, Except.toOption] at hp
    | [], hp => simp [decode, Except.toOption] at hp
  · exact .inr rfl

/-- FETCH_T: everything the step can do (R99). -/
theorem fetchTStep_next {s t : State} (h : fetchTStep s = .next t) :
    (∃ n, t = loadRun n .emitT s) ∨ t = goTo .pad s := by
  unfold fetchTStep at h
  split at h
  · rcases runToken_trun_cases s with ⟨n, hn⟩ | hf
    · rw [hn] at h; cases h; exact .inl ⟨n, rfl⟩
    · rw [hf] at h; cases h
  · cases h; exact .inr rfl

/-- EMIT_T: everything the step can do (R100). -/
theorem emitTStep_next {s t : State} (h : emitTStep s = .next t) :
    t = goTo .fetchC s ∨ t = clipRun .fetchC s ∨ t = countRun (writePixel transparent s) := by
  unfold emitTStep at h
  split at h
  · cases h; exact .inl rfl
  · split at h
    · cases h; exact .inr (.inl rfl)
    · cases h; exact .inr (.inr rfl)

/-- FETCH_C: everything the step can do (R101). -/
theorem fetchCStep_next {s t : State} (h : fetchCStep s = .next t) :
    (∃ n, t = loadRun n .emitC s) ∨ t = goTo .pad s := by
  unfold fetchCStep at h
  split at h
  · rcases runToken_crun_cases s with ⟨n, hn⟩ | hf
    · rw [hn] at h; cases h; exact .inl ⟨n, rfl⟩
    · rw [hf] at h; cases h
  · cases h; exact .inr rfl

/-- EMIT_C: everything the step can do (R102). -/
theorem emitCStep_next {s t : State} (h : emitCStep s = .next t) :
    t = goTo .fetchT s ∨ t = clipRun .fetchT s ∨ t = cutRun s ∨
      ∃ r g b : Byte, t = countRun (passRgb (writePixel (px r g b 255) s)) := by
  unfold emitCStep at h
  split at h
  · cases h; exact .inl rfl
  · split at h
    · cases h; exact .inr (.inl rfl)
    · split at h
      · rcases runToken_rgb_cases s with ⟨r, g, b, hn⟩ | hf
        · rw [hn] at h; cases h; exact .inr (.inr (.inr ⟨r, g, b, rfl⟩))
        · rw [hf] at h; cases h
      · cases h; exact .inr (.inr (.inl rfl))

/-- PAD: everything the step can do (R113). -/
theorem padStep_next {s t : State} (h : padStep s = .next t) :
    t = writePixel transparent s ∨ t = finish .ok s := by
  unfold padStep at h
  split at h
  · cases h; exact .inl rfl
  · cases h; exact .inr rfl

/-- `settle`: everything it can do (R88, R97). -/
theorem settle_next {f : State → State} {res : Option Resolved} {s t : State} (h : settle f res s = .next t) :
    (∃ k, res = some (.notFound k) ∧ t = finish .notFound (setReason k s)) ∨
      ∃ a n, res = some (.found a n) ∧ t = f (setRange a n s) := by
  unfold settle at h
  split at h
  · cases h
  · cases h; exact .inl ⟨_, rfl, rfl⟩
  · cases h; exact .inr ⟨_, _, rfl, rfl⟩

/-- LOAD: everything it can do (R81). -/
theorem execLoad_next {s t : State} (h : execLoad s = .next t) :
    (∃ e sig, (e = .badLen ∨ e = .format) ∧ t = loadFail e (latchSignature sig s)) ∨
      ∃ (sig : Word) (n : Half), le32 s 0 = some sig.toNat ∧ le16 s 4 = some n.toNat ∧
        s.archiveLen.toNat ≤ s.amemSize.toNat ∧ Config.headerLen + 4 * n.toNat ≤ s.archiveLen.toNat ∧
        t = finish .ok (latchCount n (latchSignature sig s)) := by
  unfold execLoad at h
  split at h
  · cases h; exact .inl ⟨_, s.signature, .inl rfl, rfl⟩
  · split at h
    · cases h; exact .inl ⟨_, s.signature, .inr rfl, rfl⟩
    · rename_i h1 h2
      simp only [Config.headerLen] at h2
      rw [le32_of_le s 0 (by omega), le16_of_le s 4 (by omega)] at h ⊢
      cases h
      have b0 := (amemValue s 0).isLt
      have b1 := (amemValue s (0 + 1)).isLt
      have b2 := (amemValue s (0 + 2)).isLt
      have b3 := (amemValue s (0 + 3)).isLt
      have b4 := (amemValue s 4).isLt
      have b5 := (amemValue s (4 + 1)).isLt
      unfold loadCount
      split
      · exact .inl ⟨_, _, .inr rfl, rfl⟩
      · rename_i h3
        refine .inr ⟨_, _, ?_, ?_, by omega, Nat.le_of_not_lt h3, rfl⟩
        · rw [BitVec.toNat_ofNat, Nat.mod_eq_of_lt (by omega)]
        · rw [BitVec.toNat_ofNat, Nat.mod_eq_of_lt (by omega)]

end Sys2Proof.Machine
end

