-- ==== Sys2Proof/Laws/Reference.lean ====
section
/-! SUPPORT. The reference decode (43_rle_decoder.md R93): fuel beyond the block's length changes nothing, the pixel list never
passes the budget, and the token count is only carried along. -/

namespace Sys2Proof.Machine

variable (b : Nat → Byte) (n : Nat)

theorem refTransparent_length_le (t : Nat) (p : List Word) (h : p.length ≤ Config.gridPixels) :
    (refTransparent t p).length ≤ Config.gridPixels := by
  simp only [refTransparent, List.length_append, List.length_replicate]
  omega

theorem refColored_length_le (c cur : Nat) (p : List Word) (h : p.length ≤ Config.gridPixels) :
    (refColored b n c cur p).2.length ≤ Config.gridPixels := by
  induction c generalizing cur p with
  | zero => exact h
  | succ c ih =>
    rw [refColored]
    split
    · exact h
    · split
      · exact h
      · refine ih _ _ ?_
        simp only [List.length_append, List.length_singleton]
        omega

/-- Step 2d while the budget and the block have room: one pixel. -/
theorem refColored_step (c cur : Nat) (p : List Word) (hp : ¬p.length = Config.gridPixels) (h : cur + 3 ≤ n) :
    refColored b n (c + 1) cur p = refColored b n c (cur + 3) (p ++ [px (b cur) (b (cur + 1)) (b (cur + 2)) 255]) := by
  rw [refColored, if_neg hp, if_neg (by omega)]

theorem refColored_cur_le (c cur : Nat) (p : List Word) : cur ≤ (refColored b n c cur p).1 := by
  induction c generalizing cur p with
  | zero => exact le_refl _
  | succ c ih =>
    rw [refColored]
    split
    · exact le_refl _
    · split
      · exact le_refl _
      · exact le_trans (by omega) (ih _ _)

/-- The loop ends when fewer than 2 bytes remain or the budget is full. -/
theorem refLoop_stop (fuel : Nat) (r : RefRun) (h : ¬(r.cur + 2 ≤ n ∧ r.pix.length < Config.gridPixels)) :
    refLoop b n fuel r = r := by
  cases fuel with
  | zero => rfl
  | succ f => rw [refLoop, if_neg h]

/-- Once the cursor and the fuel together reach the end of the block, more fuel changes nothing. -/
theorem refLoop_fuel (fuel extra : Nat) (r : RefRun) (h : n ≤ r.cur + fuel) :
    refLoop b n (fuel + extra) r = refLoop b n fuel r := by
  induction fuel generalizing r with
  | zero =>
    rw [refLoop_stop b n _ r (by omega), refLoop_stop b n _ r (by omega)]
  | succ fuel ih =>
    rw [Nat.add_right_comm, refLoop, refLoop]
    split
    · dsimp only
      split
      · rfl
      · refine ih _ ?_
        have := refColored_cur_le b n (ref16 b (r.cur + 2)) (r.cur + 2 + 2)
          (refTransparent (ref16 b r.cur) r.pix)
        dsimp only
        omega
    · rfl

/-- The loop with the block's length as fuel, one iteration unfolded. -/
theorem refLoop_step (r : RefRun) (h : r.cur + 2 ≤ n ∧ r.pix.length < Config.gridPixels) :
    refLoop b n n r =
      if r.cur + 4 > n then
        { cur := r.cur + 2, pix := refTransparent (ref16 b r.cur) r.pix, tokens := r.tokens + 1 }
      else
        refLoop b n n
          { cur := (refColored b n (ref16 b (r.cur + 2)) (r.cur + 4) (refTransparent (ref16 b r.cur) r.pix)).1
            pix := (refColored b n (ref16 b (r.cur + 2)) (r.cur + 4) (refTransparent (ref16 b r.cur) r.pix)).2
            tokens := r.tokens + 2 } := by
  obtain ⟨m, rfl⟩ : ∃ m, n = m + 1 := ⟨n - 1, by omega⟩
  conv_lhs => rw [refLoop, if_pos h]
  dsimp only
  split
  · rfl
  · refine (refLoop_fuel b (m + 1) m 1 _ ?_).symm
    have := refColored_cur_le b (m + 1) (ref16 b (r.cur + 2)) (r.cur + 2 + 2)
      (refTransparent (ref16 b r.cur) r.pix)
    dsimp only
    omega

/-- The token count is only carried along. -/
theorem refLoop_tokens (fuel : Nat) (r : RefRun) (k : Nat) :
    refLoop b n fuel { r with tokens := r.tokens + k } =
      { refLoop b n fuel r with tokens := (refLoop b n fuel r).tokens + k } := by
  induction fuel generalizing r with
  | zero => rfl
  | succ fuel ih =>
    simp only [refLoop]
    split
    · split
      · simp only [RefRun.mk.injEq, true_and]; omega
      · rw [← ih]
        simp only [Nat.add_right_comm]
    · rfl

theorem refLoop_length_le (fuel : Nat) (r : RefRun) (h : r.pix.length ≤ Config.gridPixels) :
    (refLoop b n fuel r).pix.length ≤ Config.gridPixels := by
  induction fuel generalizing r with
  | zero => exact h
  | succ fuel ih =>
    simp only [refLoop]
    split
    · split
      · exact refTransparent_length_le _ _ h
      · exact ih _ (refColored_length_le b n _ _ _ (refTransparent_length_le _ _ h))
    · exact h

/-- Padding fills the list up to the budget. -/
theorem refPad_length (p : List Word) (h : p.length ≤ Config.gridPixels) : (refPad p).length = Config.gridPixels := by
  simp only [refPad, List.length_append, List.length_replicate]
  omega

@[simp] theorem refTransparent_zero (p : List Word) : refTransparent 0 p = p := by simp [refTransparent]

/-- A full budget drops the run. -/
theorem refTransparent_full (t : Nat) (p : List Word) (h : p.length = Config.gridPixels) : refTransparent t p = p := by
  simp [refTransparent, h]

/-- Below the budget a run is one pixel and the rest of the run. -/
theorem refTransparent_succ (t : Nat) (p : List Word) (h : p.length < Config.gridPixels) :
    refTransparent (t + 1) p = refTransparent t (p ++ [transparent]) := by
  have e : min (t + 1) (Config.gridPixels - p.length) = min t (Config.gridPixels - (p.length + 1)) + 1 := by omega
  simp only [refTransparent, List.length_append, List.length_singleton, e, List.replicate_succ, List.append_assoc,
    List.singleton_append]

/-- Below the budget padding is one pixel and the rest of the padding. -/
theorem refPad_succ (p : List Word) (h : p.length < Config.gridPixels) : refPad p = refPad (p ++ [transparent]) := by
  have e : Config.gridPixels - p.length = Config.gridPixels - (p.length + 1) + 1 := by omega
  simp only [refPad, List.length_append, List.length_singleton, e, List.replicate_succ, List.append_assoc,
    List.singleton_append]

theorem refPad_full (p : List Word) (h : p.length = Config.gridPixels) : refPad p = p := by simp [refPad, h]

/-- Every stage of the reference decode only appends pixels. -/
theorem refTransparent_prefix (t : Nat) (p : List Word) : p <+: refTransparent t p := List.prefix_append _ _

theorem refPad_prefix (p : List Word) : p <+: refPad p := List.prefix_append _ _

theorem refColored_prefix (c cur : Nat) (p : List Word) : p <+: (refColored b n c cur p).2 := by
  induction c generalizing cur p with
  | zero => exact List.prefix_refl p
  | succ c ih =>
    rw [refColored]
    split
    · exact List.prefix_refl p
    · split
      · exact List.prefix_refl p
      · exact (List.prefix_append p _).trans (ih _ _)

theorem refLoop_prefix (fuel : Nat) (r : RefRun) : r.pix <+: (refLoop b n fuel r).pix := by
  induction fuel generalizing r with
  | zero => exact List.prefix_refl _
  | succ fuel ih =>
    rw [refLoop]
    split
    · dsimp only
      split
      · exact refTransparent_prefix _ _
      · have h := (refTransparent_prefix (ref16 b r.cur) r.pix).trans
          (refColored_prefix b n (ref16 b (r.cur + 2)) (r.cur + 2 + 2) _)
        exact h.trans (ih ⟨_, (refColored b n _ _ _).2, _⟩)
    · exact List.prefix_refl _

/-- Colored pixels are read inside the block. -/
theorem refColored_cur_le_max (c cur : Nat) (p : List Word) : (refColored b n c cur p).1 ≤ max n cur := by
  induction c generalizing cur p with
  | zero => exact le_max_right _ _
  | succ c ih =>
    rw [refColored]
    split
    · exact le_max_right _ _
    · split
      · exact le_max_right _ _
      · exact le_trans (ih _ _) (by omega)

/-- Each token the loop reads takes two bytes of the block. -/
theorem refLoop_tokens_le (fuel : Nat) (r : RefRun) :
    2 * (refLoop b n fuel r).tokens + r.cur ≤ 2 * r.tokens + max n r.cur := by
  induction fuel generalizing r with
  | zero => exact Nat.add_le_add_left (le_max_right _ _) _
  | succ fuel ih =>
    rw [refLoop]
    split
    · dsimp only
      split
      · dsimp only; omega
      · have h := ih ⟨(refColored b n (ref16 b (r.cur + 2)) (r.cur + 2 + 2) (refTransparent (ref16 b r.cur) r.pix)).1,
          (refColored b n (ref16 b (r.cur + 2)) (r.cur + 2 + 2) (refTransparent (ref16 b r.cur) r.pix)).2, r.tokens + 2⟩
        have h1 := refColored_cur_le b n (ref16 b (r.cur + 2)) (r.cur + 2 + 2) (refTransparent (ref16 b r.cur) r.pix)
        have h2 := refColored_cur_le_max b n (ref16 b (r.cur + 2)) (r.cur + 2 + 2) (refTransparent (ref16 b r.cur) r.pix)
        dsimp only at h
        omega
    · omega

end Sys2Proof.Machine
end

