-- ==== Sys2Proof/Laws/Resume.lean ====
section
/-! SUPPORT. One lemma that says everything an engine step does to a decode under way: it has a next state, keeps the decode in
order, writes at most the word PIXCOUNT, leaves the reference decode with what is left to do, and comes one step nearer its end
(43_rle_decoder.md R103, R104; 40_host_interface.md R76). -/

namespace Sys2Proof.Machine

/-- A decode in order: what R39 items 2, 3 and 5 say of the registers. -/
structure DecodeOk (s : State) : Prop where
  decoding : s.fsm.decoding = true
  rangeOk : RangeOk s
  cursorLe : s.cursor.toNat ≤ max s.blkLen.toNat 3
  positioned : Positioned s
  runZero : s.fsm ≠ .emitT → s.fsm ≠ .emitC → s.run = 0

/-- The steps to IDLE: a step for each pixel still to be written, two for each token still to be read, and the rest of the walk. -/
def stepsLeft (s : State) (p : List Word) : Nat :=
  (Config.gridPixels - p.length) + 2 * (resume s p).tokens +
    match s.fsm with
    | .idle => 0
    | .exec => 0
    | .fetchT => 2
    | .emitT => 3
    | .fetchC => 2
    | .emitC => 3
    | .pad => 1

/-- The registers and memories a decode step does not touch. -/
def SameCommand (s t : State) : Prop :=
  t = { s with
    cursor := t.cursor, run := t.run, pixcount := t.pixcount, row := t.row, col := t.col, full := t.full, fsm := t.fsm,
    grid := t.grid, shortTail := t.shortTail, runClipped := t.runClipped }

/-- What GRID a decode step leaves: the same, or one more word, the next in order. -/
def GridStep (s t : State) : Prop :=
  (t.grid = s.grid ∧ t.pixcount = s.pixcount) ∨
    (s.pixcount.toNat < Config.gridPixels ∧ t.pixcount.toNat = s.pixcount.toNat + 1 ∧
      ∃ v, t.grid = sparseSet s.grid s.pixcount.toNat v)

/-- A step that goes on with the decode. -/
structure DecodeStep (s : State) (p : List Word) (t : State) (q : List Word) (k : Nat) : Prop where
  ok : DecodeOk t
  same : SameCommand s t
  gridStep : GridStep s t
  holds : GridHolds t q
  cur : (resume t q).cur = (resume s p).cur
  pix : (resume t q).pix = (resume s p).pix
  tokens : (resume s p).tokens = (resume t q).tokens + k
  steps : stepsLeft s p = stepsLeft t q + 1

theorem blockByte_congr {s t : State} (hm : t.amem = s.amem) (hs : t.blkStart = s.blkStart) : blockByte t = blockByte s := by
  funext k
  simp only [blockByte, amemValue, hm, hs]

/-- The pixels held so far begin what the reference decode ends with. -/
theorem resume_prefix (s : State) (p : List Word) : p <+: (resume s p).pix := by
  have hl : ∀ cur q, p <+: q → p <+: refPad (refLoop (blockByte s) s.blkLen.toNat s.blkLen.toNat ⟨cur, q, 0⟩).pix := by
    intro cur q hq
    refine (hq.trans ?_).trans (refPad_prefix _)
    exact refLoop_prefix _ _ _ ⟨cur, q, 0⟩
  unfold resume
  cases s.fsm <;> dsimp only
  · exact List.prefix_refl _
  · exact List.prefix_refl _
  · exact hl _ _ (List.prefix_refl _)
  · split
    · exact (refTransparent_prefix _ _).trans (refPad_prefix _)
    · exact hl _ _ ((refTransparent_prefix _ _).trans (refColored_prefix _ _ _ _ _))
  · split
    · exact refPad_prefix _
    · exact hl _ _ (refColored_prefix _ _ _ _ _)
  · exact hl _ _ (refColored_prefix _ _ _ _ _)
  · exact refPad_prefix _

section

variable {s : State} {p : List Word}

theorem GridHolds.length_le (hp : GridHolds s p) (h : DecodeOk s) : p.length ≤ Config.gridPixels :=
  hp.1 ▸ h.positioned.le

/-- A pixel written below the budget extends the pixels held by one. -/
theorem GridHolds.writePixel (hp : GridHolds s p) (h : Positioned s) (hlt : s.pixcount.toNat < Config.gridPixels) (v : Word) :
    GridHolds (writePixel v s) (p ++ [v]) := by
  obtain ⟨hl, hw⟩ := hp
  obtain ⟨-, hidx⟩ := h.index hlt
  refine ⟨by rw [List.length_append, List.length_singleton, hl, (h.writePixel hlt v).2], fun k hk => ?_⟩
  rw [gridWord_writePixel, hidx]
  rw [List.length_append, List.length_singleton] at hk
  by_cases he : k = s.pixcount.toNat
  · rw [if_pos he, List.getElem?_append_right (by omega)]
    simp [he, hl]
  · rw [if_neg he, hw k (by omega), List.getElem?_append_left (by omega)]

theorem gridStep_writePixel (h : Positioned s) (hlt : s.pixcount.toNat < Config.gridPixels) (v : Word) :
    (Machine.writePixel v s).pixcount.toNat = s.pixcount.toNat + 1 ∧
      (Machine.writePixel v s).grid = sparseSet s.grid s.pixcount.toNat v := by
  refine ⟨(h.writePixel hlt v).2, ?_⟩
  rw [writePixel_grid, (h.index hlt).2]

/-- FETCH_T that reads a token. -/
theorem fetchT_reads (h : DecodeOk s) (hp : GridHolds s p) (hf : s.fsm = .fetchT)
    (hc : s.cursor.toNat + 2 ≤ s.blkLen.toNat) (hlt : s.pixcount.toNat < Config.gridPixels) :
    let t := loadRun (BitVec.ofNat 16 (ref16 (blockByte s) s.cursor.toNat)) .emitT s
    engineStep s = .next t ∧ DecodeStep s p t p 1 := by
  intro t
  have hn := s.blkLen.isLt
  have hcur : t.cursor.toNat = s.cursor.toNat + 2 := by
    change (s.cursor + 2).toNat = _
    rw [BitVec.toNat_add]; change (s.cursor.toNat + 2) % 2 ^ 32 = _; omega
  have hrun : t.run.toNat = ref16 (blockByte s) s.cursor.toNat := by
    have h0 := (blockByte s s.cursor.toNat).isLt
    have h1 := (blockByte s (s.cursor.toNat + 1)).isLt
    change (BitVec.ofNat 16 _).toNat = _
    rw [BitVec.toNat_ofNat, Nat.mod_eq_of_lt]
    unfold ref16; omega
  have hlen : p.length < Config.gridPixels := hp.1 ▸ hlt
  have hb : blockByte t = blockByte s := rfl
  have hres : (resume t p).cur = (resume s p).cur ∧ (resume t p).pix = (resume s p).pix ∧
      (resume s p).tokens = (resume t p).tokens + 1 := by
    have ht : t.fsm = .emitT := rfl
    simp only [resume, hf, ht]
    rw [hb, hcur, hrun]
    change _ ∧ _ ∧ (refLoop (blockByte s) s.blkLen.toNat s.blkLen.toNat _).tokens = _
    rw [refLoop_step (blockByte s) s.blkLen.toNat { cur := s.cursor.toNat, pix := p, tokens := 0 } ⟨hc, hlen⟩]
    by_cases h4 : s.cursor.toNat + 4 > s.blkLen.toNat
    · have h4' : s.cursor.toNat + 2 + 2 > t.blkLen.toNat := h4
      simp only [if_pos h4, if_pos h4', and_self]
    · have h4' : ¬ s.cursor.toNat + 2 + 2 > t.blkLen.toNat := h4
      simp only [if_neg h4, if_neg h4']
      have e := refLoop_tokens (blockByte s) s.blkLen.toNat s.blkLen.toNat
        { cur := (refColored (blockByte s) s.blkLen.toNat (ref16 (blockByte s) (s.cursor.toNat + 2)) (s.cursor.toNat + 4)
            (refTransparent (ref16 (blockByte s) s.cursor.toNat) p)).1
          pix := (refColored (blockByte s) s.blkLen.toNat (ref16 (blockByte s) (s.cursor.toNat + 2)) (s.cursor.toNat + 4)
            (refTransparent (ref16 (blockByte s) s.cursor.toNat) p)).2
          tokens := 0 } 2
      simp only [Nat.zero_add] at e ⊢
      rw [e]
      exact ⟨rfl, rfl, rfl⟩
  refine ⟨?_, ⟨⟨rfl, h.rangeOk, ?_, ⟨h.positioned.position, h.positioned.fullOrigin⟩, fun h' => absurd rfl h'⟩, rfl,
    .inl ⟨rfl, rfl⟩, hp, hres.1, hres.2.1, hres.2.2, ?_⟩⟩
  · rw [engineStep, hf]
    dsimp only
    rw [fetchTStep, if_pos ⟨hc, hlt⟩, runToken_trun s h.rangeOk hc]
  · rw [hcur]
    exact le_max_of_le_left hc
  · have ht : t.fsm = .emitT := rfl
    simp only [stepsLeft, hf, ht, hres.2.2]
    omega

/-- FETCH_C that reads a token. -/
theorem fetchC_reads (h : DecodeOk s) (hp : GridHolds s p) (hf : s.fsm = .fetchC)
    (hc : s.cursor.toNat + 2 ≤ s.blkLen.toNat) :
    let t := loadRun (BitVec.ofNat 16 (ref16 (blockByte s) s.cursor.toNat)) .emitC s
    engineStep s = .next t ∧ DecodeStep s p t p 1 := by
  intro t
  have hn := s.blkLen.isLt
  have hcur : t.cursor.toNat = s.cursor.toNat + 2 := by
    change (s.cursor + 2).toNat = _
    rw [BitVec.toNat_add]; change (s.cursor.toNat + 2) % 2 ^ 32 = _; omega
  have hrun : t.run.toNat = ref16 (blockByte s) s.cursor.toNat := by
    have h0 := (blockByte s s.cursor.toNat).isLt
    have h1 := (blockByte s (s.cursor.toNat + 1)).isLt
    change (BitVec.ofNat 16 _).toNat = _
    rw [BitVec.toNat_ofNat, Nat.mod_eq_of_lt]
    unfold ref16; omega
  have hb : blockByte t = blockByte s := rfl
  have hres : (resume t p).cur = (resume s p).cur ∧ (resume t p).pix = (resume s p).pix ∧
      (resume s p).tokens = (resume t p).tokens + 1 := by
    have ht : t.fsm = .emitC := rfl
    simp only [resume, hf, ht]
    rw [hb, hcur, hrun, if_neg (by omega)]
    exact ⟨rfl, rfl, rfl⟩
  refine ⟨?_, ⟨⟨rfl, h.rangeOk, ?_, ⟨h.positioned.position, h.positioned.fullOrigin⟩, fun _ h' => absurd rfl h'⟩, rfl,
    .inl ⟨rfl, rfl⟩, hp, hres.1, hres.2.1, hres.2.2, ?_⟩⟩
  · rw [engineStep, hf]
    dsimp only
    rw [fetchCStep, if_pos hc, runToken_crun s h.rangeOk hc]
  · rw [hcur]
    exact le_max_of_le_left hc
  · have ht : t.fsm = .emitC := rfl
    simp only [stepsLeft, hf, ht, hres.2.2]
    omega

/-- A step that only moves to another control state, with no token read and no pixel written. -/
theorem decodeStep_goTo {t : State} (h : DecodeOk s) (hp : GridHolds s p) (hs : SameCommand s t) (hg : t.grid = s.grid)
    (hpos : t.pixcount = s.pixcount ∧ t.row = s.row ∧ t.col = s.col ∧ t.full = s.full) (hc : t.cursor = s.cursor)
    (hd : t.fsm.decoding = true) (hrun : t.run = 0) (hres : resume t p = resume s p) (hst : stepsLeft s p = stepsLeft t p + 1) :
    DecodeStep s p t p 0 := by
  obtain ⟨h1, h2, h3, h4⟩ := hpos
  have hl : t.blkLen = s.blkLen := by rw [hs]
  have hr : RangeOk t := by
    have e := h.rangeOk
    rw [hs]
    exact e
  refine ⟨⟨hd, hr, by rw [hc, hl]; exact h.cursorLe, ⟨?_, ?_⟩, fun _ _ => hrun⟩, hs, .inl ⟨hg, h1⟩, ⟨h1 ▸ hp.1, ?_⟩,
    by rw [hres], by rw [hres], by rw [hres, Nat.add_zero], hst⟩
  · rw [h1, h2, h3, h4]; exact h.positioned.position
  · rw [h2, h3, h4]; exact h.positioned.fullOrigin
  · intro k hk
    rw [gridWord, hg]
    exact hp.2 k hk

/-- A step that writes one pixel, with no token read: `t` is where `writePixel` leaves the writer, whatever else it set. -/
theorem decodeStep_pixel {t : State} {v : Word} (h : DecodeOk s) (hp : GridHolds s p) (hlt : s.pixcount.toNat < Config.gridPixels)
    (hs : SameCommand s t) (hg : t.grid = (writePixel v s).grid)
    (hpos : t.pixcount = (writePixel v s).pixcount ∧ t.row = (writePixel v s).row ∧ t.col = (writePixel v s).col ∧
      t.full = (writePixel v s).full)
    (hc : t.cursor.toNat ≤ max s.blkLen.toNat 3) (hf : t.fsm = s.fsm) (hrun : t.fsm ≠ .emitT → t.fsm ≠ .emitC → t.run = 0)
    (hres : resume t (p ++ [v]) = resume s p) : DecodeStep s p t (p ++ [v]) 0 := by
  obtain ⟨h1, h2, h3, h4⟩ := hpos
  have hl : t.blkLen = s.blkLen := by rw [hs]
  have hr : RangeOk t := by
    have e := h.rangeOk
    rw [hs]
    exact e
  obtain ⟨hw1, hw2⟩ := gridStep_writePixel h.positioned hlt v
  have hq := (h.positioned.writePixel hlt v).1
  have hh := hp.writePixel h.positioned hlt v
  have hpl : p.length < Config.gridPixels := hp.1 ▸ hlt
  refine ⟨⟨by rw [hf]; exact h.decoding, hr, by rw [hl]; exact hc, ⟨?_, ?_⟩, hrun⟩, hs,
    .inr ⟨hlt, by rw [h1, hw1], v, by rw [hg, hw2]⟩, ⟨by rw [h1]; exact hh.1, ?_⟩, by rw [hres], by rw [hres],
    by rw [hres, Nat.add_zero], ?_⟩
  · rw [h1, h2, h3, h4]; exact hq.position
  · rw [h2, h3, h4]; exact hq.fullOrigin
  · intro k hk
    rw [gridWord, hg]
    exact hh.2 k hk
  · simp only [stepsLeft, hres, hf, List.length_append, List.length_singleton]
    omega

/-- The walk's steps of EMIT_T. -/
theorem emitT_decodes (h : DecodeOk s) (hp : GridHolds s p) (hf : s.fsm = .emitT) :
    ∃ t q, engineStep s = .next t ∧ DecodeStep s p t q 0 := by
  have he : engineStep s = emitTStep s := by rw [engineStep, hf]
  have hlen := hp.length_le h
  rw [he]
  unfold emitTStep
  split
  · rename_i h0
    refine ⟨_, p, rfl, decodeStep_goTo h hp rfl rfl ⟨rfl, rfl, rfl, rfl⟩ rfl rfl (BitVec.eq_of_toNat_eq h0) ?_ ?_⟩
    · simp only [resume, hf, goTo_fsm, h0, refTransparent_zero]; rfl
    · have e : resume (goTo .fetchC s) p = resume s p := by
        simp only [resume, hf, goTo_fsm, h0, refTransparent_zero]; rfl
      simp only [stepsLeft, e, hf, goTo_fsm]
  · split
    · rename_i h1
      have hfull : p.length = Config.gridPixels := hp.1.trans h1
      have e : resume (clipRun .fetchC s) p = resume s p := by
        simp only [resume, hf, clipRun_fsm, refTransparent_full _ p hfull]; rfl
      refine ⟨_, p, rfl, decodeStep_goTo h hp rfl rfl ⟨rfl, rfl, rfl, rfl⟩ rfl rfl rfl e ?_⟩
      simp only [stepsLeft, e, hf, clipRun_fsm]
    · rename_i h0 h1
      have hlt : s.pixcount.toNat < Config.gridPixels := lt_of_le_of_ne h.positioned.le h1
      have hr : (s.run - 1).toNat = s.run.toNat - 1 := by
        have := s.run.isLt
        rw [BitVec.toNat_sub]; change (2 ^ 16 - 1 + s.run.toNat) % 2 ^ 16 = _; omega
      have hpl : p.length < Config.gridPixels := hp.1 ▸ hlt
      have e : resume (countRun (writePixel transparent s)) (p ++ [transparent]) = resume s p := by
        obtain ⟨m, hm⟩ : ∃ m, s.run.toNat = m + 1 := ⟨s.run.toNat - 1, by omega⟩
        simp only [resume, hf, countRun_fsm, writePixel_fsm, countRun_run, writePixel_run, hr, hm, Nat.add_sub_cancel]
        rw [refTransparent_succ m p hpl]; rfl
      refine ⟨_, p ++ [transparent], rfl, decodeStep_pixel h hp hlt rfl rfl ⟨rfl, rfl, rfl, rfl⟩ h.cursorLe rfl ?_ e⟩
      simp [hf]

/-- The walk's steps of EMIT_C. -/
theorem emitC_decodes (h : DecodeOk s) (hp : GridHolds s p) (hf : s.fsm = .emitC) :
    ∃ t q, engineStep s = .next t ∧ DecodeStep s p t q 0 := by
  have he : engineStep s = emitCStep s := by rw [engineStep, hf]
  have hlen := hp.length_le h
  rw [he]
  unfold emitCStep
  split
  · rename_i h0
    have e : resume (goTo .fetchT s) p = resume s p := by
      simp only [resume, hf, goTo_fsm, h0, refColored]; rfl
    refine ⟨_, p, rfl, decodeStep_goTo h hp rfl rfl ⟨rfl, rfl, rfl, rfl⟩ rfl rfl (BitVec.eq_of_toNat_eq h0) e ?_⟩
    simp only [stepsLeft, e, hf, goTo_fsm]
  · rename_i h0
    obtain ⟨m, hm⟩ : ∃ m, s.run.toNat = m + 1 := ⟨s.run.toNat - 1, by omega⟩
    split
    · rename_i h1
      have hfull : p.length = Config.gridPixels := hp.1.trans h1
      have e : resume (clipRun .fetchT s) p = resume s p := by
        simp only [resume, hf, clipRun_fsm, hm, refColored, if_pos hfull]; rfl
      refine ⟨_, p, rfl, decodeStep_goTo h hp rfl rfl ⟨rfl, rfl, rfl, rfl⟩ rfl rfl rfl e ?_⟩
      simp only [stepsLeft, e, hf, clipRun_fsm]
    · rename_i h1
      have hlt : s.pixcount.toNat < Config.gridPixels := lt_of_le_of_ne h.positioned.le h1
      have hne : ¬ p.length = Config.gridPixels := by rw [hp.1]; exact h1
      split
      · rename_i h3
        have hn := s.blkLen.isLt
        have hr : (s.run - 1).toNat = m := by
          have := s.run.isLt
          rw [BitVec.toNat_sub]; change (2 ^ 16 - 1 + s.run.toNat) % 2 ^ 16 = _; omega
        have hcur : (s.cursor + 3).toNat = s.cursor.toNat + 3 := by
          rw [BitVec.toNat_add]; change (s.cursor.toNat + 3) % 2 ^ 32 = _; omega
        have e : resume (countRun (passRgb (writePixel (rgbAt s) s))) (p ++ [rgbAt s]) = resume s p := by
          have hb : blockByte (countRun (passRgb (writePixel (rgbAt s) s))) = blockByte s := blockByte_congr rfl rfl
          have hstep : refColored (blockByte s) s.blkLen.toNat (m + 1) s.cursor.toNat p =
              refColored (blockByte s) s.blkLen.toNat m (s.cursor.toNat + 3) (p ++ [rgbAt s]) :=
            refColored_step (blockByte s) s.blkLen.toNat m s.cursor.toNat p hne h3
          simp only [resume, hf, hb, countRun_fsm, passRgb_fsm, writePixel_fsm, countRun_run, passRgb_run, writePixel_run,
            countRun_cursor, passRgb_cursor, writePixel_cursor, countRun_blkLen, passRgb_blkLen, writePixel_blkLen, hr, hm, hcur,
            hstep]
        refine ⟨_, p ++ [rgbAt s], runToken_rgb s h.rangeOk h3, decodeStep_pixel h hp hlt rfl ?_ ⟨?_, ?_, ?_, ?_⟩ ?_ ?_ ?_ e⟩
        · rw [countRun_grid, passRgb_grid]
        · rw [countRun_pixcount, passRgb_pixcount]
        · rw [countRun_row, passRgb_row]
        · rw [countRun_col, passRgb_col]
        · rw [countRun_full, passRgb_full]
        · rw [countRun_cursor, passRgb_cursor, writePixel_cursor, hcur]; exact le_max_of_le_left h3
        · rw [countRun_fsm, passRgb_fsm, writePixel_fsm]
        · simp [hf]
      · rename_i h3
        have e : resume (cutRun s) p = resume s p := by
          simp only [resume, hf, cutRun_fsm, hm]
          conv_rhs => rw [refColored, if_neg hne, if_pos (by omega)]
          rfl
        refine ⟨_, p, rfl, decodeStep_goTo h hp rfl rfl ⟨rfl, rfl, rfl, rfl⟩ rfl rfl rfl e ?_⟩
        simp only [stepsLeft, e, hf, cutRun_fsm]

/-- Everything an engine step does to a decode under way: PAD with a full budget finishes, and any other step goes on. -/
theorem engineStep_decoding (h : DecodeOk s) (hp : GridHolds s p) :
    (s.fsm = .pad ∧ p.length = Config.gridPixels ∧ engineStep s = .next (finish .ok s)) ∨
      ∃ t q k, engineStep s = .next t ∧ DecodeStep s p t q k := by
  have hlen := hp.length_le h
  cases hf : s.fsm with
  | idle => have := h.decoding; rw [hf] at this; cases this
  | exec => have := h.decoding; rw [hf] at this; cases this
  | fetchT =>
    right
    by_cases hc : s.cursor.toNat + 2 ≤ s.blkLen.toNat ∧ s.pixcount.toNat < Config.gridPixels
    · exact ⟨_, p, 1, fetchT_reads h hp hf hc.1 hc.2⟩
    · have hstop := refLoop_stop (blockByte s) s.blkLen.toNat s.blkLen.toNat
        { cur := s.cursor.toNat, pix := p, tokens := 0 } (by rw [hp.1]; exact hc)
      have e : resume (goTo .pad s) p = resume s p := by
        simp only [resume, hf, goTo_fsm, hstop]; rfl
      have ht : (resume s p).tokens = 0 := by rw [← e]; rfl
      refine ⟨goTo .pad s, p, 0, ?_, decodeStep_goTo h hp rfl rfl ⟨rfl, rfl, rfl, rfl⟩ rfl rfl ?_ e ?_⟩
      · rw [engineStep, hf]; dsimp only; rw [fetchTStep, if_neg hc]
      · exact h.runZero (by rw [hf]; decide) (by rw [hf]; decide)
      · simp only [stepsLeft, e, ht, hf, goTo_fsm]
  | emitT =>
    obtain ⟨t, q, hh⟩ := emitT_decodes h hp hf
    exact .inr ⟨t, q, 0, hh⟩
  | fetchC =>
    right
    by_cases hc : s.cursor.toNat + 2 ≤ s.blkLen.toNat
    · exact ⟨_, p, 1, fetchC_reads h hp hf hc⟩
    · have e : resume (goTo .pad s) p = resume s p := by
        simp only [resume, hf, goTo_fsm]; rw [if_pos (by omega)]; rfl
      have ht : (resume s p).tokens = 0 := by rw [← e]; rfl
      refine ⟨goTo .pad s, p, 0, ?_, decodeStep_goTo h hp rfl rfl ⟨rfl, rfl, rfl, rfl⟩ rfl rfl ?_ e ?_⟩
      · rw [engineStep, hf]; dsimp only; rw [fetchCStep, if_neg hc]
      · exact h.runZero (by rw [hf]; decide) (by rw [hf]; decide)
      · simp only [stepsLeft, e, ht, hf, goTo_fsm]
  | emitC =>
    obtain ⟨t, q, hh⟩ := emitC_decodes h hp hf
    exact .inr ⟨t, q, 0, hh⟩
  | pad =>
    have he : engineStep s = padStep s := by rw [engineStep, hf]
    rw [he]
    unfold padStep
    split
    · rename_i hlt
      right
      have hpl : p.length < Config.gridPixels := hp.1 ▸ hlt
      have e : resume (writePixel transparent s) (p ++ [transparent]) = resume s p := by
        simp only [resume, hf, writePixel_fsm]; rw [refPad_succ p hpl]; rfl
      refine ⟨_, p ++ [transparent], 0, rfl, decodeStep_pixel h hp hlt rfl rfl ⟨rfl, rfl, rfl, rfl⟩ h.cursorLe rfl ?_ e⟩
      intro _ _
      exact h.runZero (by rw [hf]; decide) (by rw [hf]; decide)
    · rename_i hge
      exact .inl ⟨rfl, by have := hp.1; omega, rfl⟩

end

end Sys2Proof.Machine
end

