-- ==== Sys2Proof/Laws/Command.lean ====
section
/-! SUPPORT. The EXEC step: everything each command can do (40_host_interface.md R75 to R80, 41 R81, 42 R87 and R88, 43 R95 to
R98), and what the start of a decode sets up. -/

namespace Sys2Proof.Machine

/-- A Found range is inside the archive and not empty (R87). -/
theorem rangeOf_found {start stop len : Nat} {a n : Word} (hl : len < 2 ^ 32) (h : rangeOf start stop len = .found a n) :
    a.toNat = start ∧ 1 ≤ n.toNat ∧ a.toNat + n.toNat ≤ len := by
  unfold rangeOf at h
  dsimp only at h
  generalize (if stop = 0 then len else stop) = e at h
  split at h
  · cases h
  · split at h
    · cases h
    · rename_i h1 h2
      simp only [Resolved.found.injEq] at h
      obtain ⟨rfl, rfl⟩ := h
      rw [BitVec.toNat_ofNat, BitVec.toNat_ofNat]
      omega

/-- The range that `resolve` finds is inside the archive and not empty (R87). -/
theorem resolve_found {s : State} {a n : Word} (h : resolve s = some (.found a n)) :
    1 ≤ n.toNat ∧ a.toNat + n.toNat ≤ s.archiveLen.toNat := by
  unfold resolve at h
  split at h
  · cases h
  · obtain ⟨start, -, h⟩ := Option.bind_eq_some_iff.1 h
    unfold resolveFrom at h
    split at h
    · cases h
    · obtain ⟨stop, -, h⟩ := Option.map_eq_some_iff.1 h
      exact (rangeOf_found s.archiveLen.isLt h).2

/-- DECODE in terms of the range check (R95, R96). -/
theorem execDecode_eq (s : State) :
    execDecode s = if RangeOk s then .next (startDecode s) else .next (finish .badRange s) := by
  unfold execDecode
  by_cases h : RangeOk s
  · rw [if_pos h, if_neg (by have := h.1; have := h.2; omega)]
  · rw [if_neg h, if_pos (by by_contra hc; exact h ⟨by omega, by omega⟩)]

/-- Everything the EXEC step of a command can do: finish, or start a decode. -/
theorem exec_decodeOp_next {s t : State} (h0 : s.op.toNat ≠ 0) (h : exec (decodeOp s.op) s = .next t) :
    (s.op.toNat = 1 ∧ execLoad s = .next t) ∨
    (s.op.toNat = 2 ∧ t = finish .ok (clearArchive s)) ∨
    ((s.op.toNat = 3 ∨ s.op.toNat = 5) ∧ s.loaded = false ∧ t = finish .notLoaded s) ∨
    ((s.op.toNat = 3 ∨ s.op.toNat = 5) ∧ s.loaded = true ∧
      ∃ k, resolve s = some (.notFound k) ∧ t = finish .notFound (setReason k s)) ∨
    (s.op.toNat = 3 ∧ s.loaded = true ∧ ∃ a n, resolve s = some (.found a n) ∧ t = finish .ok (setRange a n s)) ∨
    (s.op.toNat = 4 ∧ RangeOk s ∧ t = startDecode s) ∨
    (s.op.toNat = 4 ∧ ¬RangeOk s ∧ t = finish .badRange s) ∨
    (s.op.toNat = 5 ∧ s.loaded = true ∧ ∃ a n, resolve s = some (.found a n) ∧ t = startDecode (setRange a n s)) ∨
    (6 ≤ s.op.toNat ∧ t = finish .badCmd s) := by
  have hlt := s.op.isLt
  generalize ho : s.op.toNat = o at *
  unfold decodeOp at h
  rw [ho] at h
  match o, h0, h with
  | 1, _, h => exact .inl ⟨rfl, h⟩
  | 2, _, h => cases h; exact .inr (.inl ⟨rfl, rfl⟩)
  | 3, _, h =>
    simp only [exec, execExtract] at h
    split at h
    · rename_i hl
      rcases settle_next h with ⟨k, hk, rfl⟩ | ⟨a, n, hr, rfl⟩
      · exact .inr (.inr (.inr (.inl ⟨.inl rfl, hl, k, hk, rfl⟩)))
      · exact .inr (.inr (.inr (.inr (.inl ⟨rfl, hl, a, n, hr, rfl⟩))))
    · rename_i hl
      cases h
      exact .inr (.inr (.inl ⟨.inl rfl, by simpa using hl, rfl⟩))
  | 4, _, h =>
    simp only [exec, execDecode_eq] at h
    split at h
    · rename_i hl; cases h; exact .inr (.inr (.inr (.inr (.inr (.inl ⟨rfl, hl, rfl⟩)))))
    · rename_i hl; cases h; exact .inr (.inr (.inr (.inr (.inr (.inr (.inl ⟨rfl, hl, rfl⟩))))))
  | 5, _, h =>
    simp only [exec, execExtractDecode] at h
    split at h
    · rename_i hl
      rcases settle_next h with ⟨k, hk, rfl⟩ | ⟨a, n, hr, rfl⟩
      · exact .inr (.inr (.inr (.inl ⟨.inr rfl, hl, k, hk, rfl⟩)))
      · exact .inr (.inr (.inr (.inr (.inr (.inr (.inr (.inl ⟨rfl, hl, a, n, hr, rfl⟩)))))))
    · rename_i hl
      cases h
      exact .inr (.inr (.inl ⟨.inr rfl, by simpa using hl, rfl⟩))
  | 6, _, h => cases h; simp
  | 7, _, h => cases h; simp
  | n + 8, _, h => cases h; simp

/-- LOAD always answers: its reads are inside AMEM (R81, R41). -/
theorem execLoad_total (s : State) : ∃ t, execLoad s = .next t := by
  unfold execLoad
  split
  · exact ⟨_, rfl⟩
  · split
    · exact ⟨_, rfl⟩
    · rename_i h1 h2
      simp only [Config.headerLen] at h2
      rw [le32_of_le s 0 (by omega), le16_of_le s 4 (by omega)]
      exact ⟨_, rfl⟩

/-- An entry of a table that fits the archive is read (R35, R86). -/
theorem offEntry_total {s : State} (ha : s.archiveLen.toNat ≤ s.amemSize.toNat)
    (ht : Config.headerLen + 4 * s.spriteCount.toNat ≤ s.archiveLen.toNat) (i : Nat) (hi : i ≤ s.spriteCount.toNat) :
    ∃ v, offEntry s i = some v := by
  unfold offEntry
  split
  · exact ⟨0, rfl⟩
  · simp only [Config.headerLen] at ht ⊢
    exact ⟨_, le32_of_le s _ (by omega)⟩

/-- `resolve` always answers when the table fits the archive (R87, R41). -/
theorem resolve_total {s : State} (ha : s.archiveLen.toNat ≤ s.amemSize.toNat)
    (ht : Config.headerLen + 4 * s.spriteCount.toNat ≤ s.archiveLen.toNat) : ∃ r, resolve s = some r := by
  unfold resolve
  split
  · exact ⟨_, rfl⟩
  · rename_i h
    obtain ⟨v, hv⟩ := offEntry_total ha ht s.spriteId.toNat (by omega)
    rw [hv, Option.bind_some]
    unfold resolveFrom
    split
    · exact ⟨_, rfl⟩
    · unfold endEntry
      split
      · obtain ⟨w, hw⟩ := offEntry_total ha ht (s.spriteId.toNat + 1) (by omega)
        rw [hw]; exact ⟨_, rfl⟩
      · exact ⟨_, rfl⟩

/-- `settle` answers whatever `resolve` found. -/
theorem settle_total (f : State → State) (r : Resolved) (s : State) : ∃ t, settle f (some r) s = .next t := by
  cases r <;> exact ⟨_, rfl⟩

/-- The EXEC step always answers, under R39 item 4. -/
theorem exec_decodeOp_total {s : State}
    (h : s.loaded = true → s.archiveLen.toNat ≤ s.amemSize.toNat ∧
      Config.headerLen + 4 * s.spriteCount.toNat ≤ s.archiveLen.toNat) : ∃ t, exec (decodeOp s.op) s = .next t := by
  unfold decodeOp
  split
  · by_cases hb : s.busy = true
    · exact ⟨dropWrite s, by simp [exec, execNop, hb]⟩
    · exact ⟨s, by simp [exec, execNop, hb]⟩
  · exact execLoad_total s
  · exact ⟨_, rfl⟩
  · by_cases hl : s.loaded = true
    · obtain ⟨r, hr⟩ := resolve_total (h hl).1 (h hl).2
      obtain ⟨t, ht⟩ := settle_total (finish .ok) r s
      exact ⟨t, by simp only [exec, execExtract, hl, if_true, hr, ht]⟩
    · exact ⟨finish .notLoaded s, by simp only [exec, execExtract, if_neg hl]⟩
  · by_cases hr : RangeOk s
    · exact ⟨startDecode s, by simp only [exec, execDecode_eq, if_pos hr]⟩
    · exact ⟨finish .badRange s, by simp only [exec, execDecode_eq, if_neg hr]⟩
  · by_cases hl : s.loaded = true
    · obtain ⟨r, hr⟩ := resolve_total (h hl).1 (h hl).2
      obtain ⟨t, ht⟩ := settle_total startDecode r s
      exact ⟨t, by simp only [exec, execExtractDecode, hl, if_true, hr, ht]⟩
    · exact ⟨finish .notLoaded s, by simp only [exec, execExtractDecode, if_neg hl]⟩
  all_goals exact ⟨_, rfl⟩

/-- `start_decode` inside the range puts a decode in order, with no pixel yet and the whole reference decode to do (R98, R103). -/
theorem startDecode_ok {s : State} (h : RangeOk s) :
    DecodeOk (startDecode s) ∧ GridHolds (startDecode s) [] ∧
      resume (startDecode s) [] = refRun (blockByte s) s.blkLen.toNat := by
  have hc : (startDecode s).cursor.toNat = (refStart s.blkLen.toNat).cur := by
    rw [startDecode_cursor]
    unfold refStart
    split <;> rfl
  refine ⟨⟨rfl, h, ?_, ⟨rfl, fun h' => absurd h' (by simp)⟩, fun _ _ => rfl⟩, ⟨rfl, fun k hk => absurd hk (Nat.not_lt_zero k)⟩, ?_⟩
  · rw [hc]
    change _ ≤ max s.blkLen.toNat 3
    unfold refStart
    dsimp only
    split <;> omega
  · have hb : blockByte (startDecode s) = blockByte s := rfl
    simp only [resume, startDecode_fsm, hb, startDecode_blkLen, hc]
    rfl

end Sys2Proof.Machine
end

