-- ==== Sys2Proof/Laws/PerInstr.lean ====
section
/-! SUPPORT. Statements about every instruction as syntax, one lemma per constructor. -/

namespace Sys2Proof.Laws.RoundTrip

/-- Decoding the encoding of a well-formed instruction in its slot gives it back, with the bytes after it. -/
def Statement (i : Instr) : Prop := WellFormed i → ∀ rest, decode i.slot (encode i ++ rest) = .ok (i, rest)

theorem nop : Statement .nop := fun _ rest => decode_command_leBytes 0 rest

theorem load : Statement .load := fun _ rest => decode_command_leBytes 1 rest

theorem unload : Statement .unload := fun _ rest => decode_command_leBytes 2 rest

theorem extract : Statement .extract := fun _ rest => decode_command_leBytes 3 rest

theorem decode : Statement .decode := fun _ rest => decode_command_leBytes 4 rest

theorem extractDecode : Statement .extractDecode := fun _ rest => decode_command_leBytes 5 rest

/-- Any opcode of a reserved row is read back whole, because the row's constructor keeps it. -/
theorem reserved (i : BitVec 4 → Instr) (op : BitVec 4) (rest : List Byte) (h : decodeOp op = i op) :
    Sys2Proof.decode .command (leBytes 4 op.toNat ++ rest) = .ok (i op, rest) := by
  rw [decode_command_leBytes, BitVec.ofNat_toNat, BitVec.setWidth_eq, h]

theorem reserved67 (op : BitVec 4) : Statement (.reserved67 op) := by
  intro h rest
  refine reserved .reserved67 op rest ?_
  revert op; decide

theorem reserved8F (op : BitVec 4) : Statement (.reserved8F op) := by
  intro h rest
  refine reserved .reserved8F op rest ?_
  revert op; decide

theorem hdrSig (sig : Word) : Statement (.hdrSig sig) := by
  intro _ rest
  change Except.ok (Instr.hdrSig (BitVec.ofNat 32 (leNat (leBytes 4 sig.toNat))), rest) = _
  rw [word_of_leBytes]

theorem hdrCount (n : Half) : Statement (.hdrCount n) := by
  intro _ rest
  change Except.ok (Instr.hdrCount (BitVec.ofNat 16 (leNat (leBytes 2 n.toNat))), rest) = _
  rw [half_of_leBytes]

theorem offsetEntry (role : EntryRole) (off : Word) : Statement (.offsetEntry role off) := by
  intro _ rest
  change Except.ok (Instr.offsetEntry role (BitVec.ofNat 32 (leNat (leBytes 4 off.toNat))), rest) = _
  rw [word_of_leBytes]

theorem key (k0 k1 k2 : Byte) : Statement (.key k0 k1 k2) := fun _ _ => rfl

theorem dsize (d : Half) : Statement (.dsize d) := by
  intro _ rest
  change Except.ok (Instr.dsize (BitVec.ofNat 16 (leNat (leBytes 2 d.toNat))), rest) = _
  rw [half_of_leBytes]

theorem trun (t : Half) : Statement (.trun t) := by
  intro _ rest
  change Except.ok (Instr.trun (BitVec.ofNat 16 (leNat (leBytes 2 t.toNat))), rest) = _
  rw [half_of_leBytes]

theorem crun (c : Half) : Statement (.crun c) := by
  intro _ rest
  change Except.ok (Instr.crun (BitVec.ofNat 16 (leNat (leBytes 2 c.toNat))), rest) = _
  rw [half_of_leBytes]

theorem rgb (r g b : Byte) : Statement (.rgb r g b) := fun _ _ => rfl

end Sys2Proof.Laws.RoundTrip
end

