-- ==== Sys2Proof/Laws/Step.lean ====
section
/-! SUPPORT. One step of the machine: everything the engine's turn, a host write and a whole step can do (10_state.md R33,
20_memory.md R51, 40_host_interface.md R70 to R74). Proofs cite these and never unfold `step`. -/

namespace Sys2Proof.Machine

/-- In EXEC the engine's turn is the command of FSM.OP (R75). -/
theorem engineStep_exec {s : State} (hf : s.fsm = .exec) (h0 : s.op.toNat ≠ 0) : engineStep s = exec (decodeOp s.op) s := by
  rw [engineStep, hf]; dsimp only; rw [execStep, if_neg h0]

/-- R39 puts a decode under way in order. -/
theorem Inv.decodeOk {s : State} (h : Inv s) (hd : s.fsm.decoding = true) : DecodeOk s :=
  ⟨hd, (h.range hd).1, (h.range hd).2, ⟨h.position, h.fullOrigin⟩, h.runZero⟩

/-- The engine's turn, by control state (R33). -/
theorem engineStep_next {s t : State} (h : engineStep s = .next t) :
    (s.fsm = .idle ∧ t = s) ∨ (s.fsm = .exec ∧ s.op.toNat ≠ 0 ∧ exec (decodeOp s.op) s = .next t) ∨
    (s.fsm = .fetchT ∧ fetchTStep s = .next t) ∨ (s.fsm = .emitT ∧ emitTStep s = .next t) ∨
    (s.fsm = .fetchC ∧ fetchCStep s = .next t) ∨ (s.fsm = .emitC ∧ emitCStep s = .next t) ∨
    (s.fsm = .pad ∧ padStep s = .next t) := by
  cases hf : s.fsm <;> rw [engineStep, hf] at h <;> dsimp only at h
  · cases h; simp
  · unfold execStep at h
    split at h
    · cases h
    · rename_i h0; simp [h0, h]
  all_goals simp [h]

/-- What the engine's turn does to the memories: AMEM stays, and GRID gets at most one word (R53, R109). -/
theorem engineStep_memories {s t : State} (h : engineStep s = .next t) :
    t.amem = s.amem ∧ (t.grid = s.grid ∨ ∃ v, t.grid = sparseSet s.grid (gridIndex s) v) := by
  rcases engineStep_next h with ⟨-, rfl⟩ | ⟨-, h0, h⟩ | ⟨-, h⟩ | ⟨-, h⟩ | ⟨-, h⟩ | ⟨-, h⟩ | ⟨-, h⟩
  · exact ⟨rfl, .inl rfl⟩
  · rcases exec_decodeOp_next h0 h with ⟨-, h⟩ | ⟨-, rfl⟩ | ⟨-, -, rfl⟩ | ⟨-, -, k, -, rfl⟩ | ⟨-, -, a, n, -, rfl⟩ |
      ⟨-, -, rfl⟩ | ⟨-, -, rfl⟩ | ⟨-, -, a, n, -, rfl⟩ | ⟨-, rfl⟩
    · rcases execLoad_next h with ⟨e, sig, -, rfl⟩ | ⟨sig, n, -, -, -, -, rfl⟩ <;> exact ⟨rfl, .inl rfl⟩
    all_goals exact ⟨rfl, .inl rfl⟩
  · rcases fetchTStep_next h with ⟨n, rfl⟩ | rfl <;> exact ⟨rfl, .inl rfl⟩
  · rcases emitTStep_next h with rfl | rfl | rfl
    · exact ⟨rfl, .inl rfl⟩
    · exact ⟨rfl, .inl rfl⟩
    · exact ⟨rfl, .inr ⟨_, rfl⟩⟩
  · rcases fetchCStep_next h with ⟨n, rfl⟩ | rfl <;> exact ⟨rfl, .inl rfl⟩
  · rcases emitCStep_next h with rfl | rfl | rfl | ⟨r, g, b, rfl⟩
    · exact ⟨rfl, .inl rfl⟩
    · exact ⟨rfl, .inl rfl⟩
    · exact ⟨rfl, .inl rfl⟩
    · exact ⟨rfl, .inr ⟨_, rfl⟩⟩
  · rcases padStep_next h with rfl | rfl
    · exact ⟨rfl, .inr ⟨_, rfl⟩⟩
    · exact ⟨rfl, .inl rfl⟩

/-- A host write of the window: everything it can do (R70 to R74). -/
theorem writeReg_next {r : WindowReg} {w : Word} {s t : State} (h : writeReg r w s = .next t) :
    t = s ∨ t = dropWrite s ∨ (s.busy = false ∧ (opField w).toNat ≠ 0 ∧ t = accept (opField w) s) ∨
    t = writeCtrl w s ∨ t = writeStatus w s ∨
    (s.busy = false ∧ s.loaded = false ∧ t = { s with archiveLen := w }) ∨
    (s.busy = false ∧ (t = { s with spriteId := w } ∨ t = { s with blkStart := w } ∨ t = { s with blkLen := w })) := by
  cases r <;> simp only [writeReg] at h
  case cmd =>
    unfold writeCmd at h
    split at h
    · cases h; simp
    · rename_i hb
      split at h
      · simp only [exec, execNop, if_neg hb] at h; cases h; simp
      · rename_i ho; cases h; exact .inr (.inr (.inl ⟨by simpa using hb, ho, rfl⟩))
  case archiveLen =>
    split at h
    · cases h; simp
    · rename_i hb; cases h
      simp only [Bool.or_eq_true, not_or, Bool.not_eq_true] at hb
      simp [hb]
  case spriteId | blkStart | blkLen =>
    split at h
    · cases h; simp
    · rename_i hb; cases h; simp at hb; simp [hb]
  all_goals (cases h; simp)

/-- One step: everything it can do (R51). -/
theorem step_next {s t : State} (h : step s = .next t) :
    ∃ es, (es = s.events ∨ ∃ e, s.events = e :: es) ∧
    ((∃ es', engineStep { s with events := es' } = .next t) ∨ (∃ x, t = { s with events := es, response := x }) ∨
    (∃ r w, writeReg r w { s with events := es } = .next t) ∨
    (∃ (a : Word) (b : Byte), a.toNat < s.amemSize.toNat ∧ AmemDuty a s ∧ t = amemStore a.toNat b { s with events := es }) ∨
    t = resetInput { s with events := es }) := by
  unfold step at h
  split at h
  · rename_i he
    exact ⟨s.events, .inl rfl, .inl ⟨s.events, h⟩⟩
  · rename_i e es he
    refine ⟨es, .inr ⟨e, he⟩, ?_⟩
    unfold runEvent at h
    split at h
    · exact .inl ⟨_, h⟩
    · unfold hostRead at h
      split at h
      · split at h
        · cases h; exact .inr (.inl ⟨_, rfl⟩)
        · cases h
      · cases h
    · unfold hostWrite at h
      split at h
      · exact .inr (.inr (.inl ⟨_, _, h⟩))
      · cases h
    · unfold hostAmemRead at h
      split at h
      · cases h; exact .inr (.inl ⟨_, rfl⟩)
      · cases h
    · rename_i a b
      unfold hostAmemWrite at h
      split at h
      · rename_i ha
        split at h
        · rename_i hd
          cases h; exact .inr (.inr (.inr (.inl ⟨a, b, ha, hd, rfl⟩)))
        · cases h
      · cases h
    · unfold hostWait at h
      split at h
      · exact .inl ⟨_, h⟩
      · cases h; exact .inr (.inl ⟨_, rfl⟩)
    · cases h; exact .inr (.inr (.inr (.inr rfl)))

end Sys2Proof.Machine
end

