-- ==== Sys2Proof/Laws/Run.lean ====
section
/-! SUPPORT. A decode with nothing scheduled runs to its end: the number of steps, the pixels and the final state
(40_host_interface.md R76, 43_rle_decoder.md R103, R104). -/

namespace Sys2Proof.Machine

/-- A run of one machine, its first step taken. -/
theorem core_run_succ (M : Host.Core) {s t : M.State} (h : M.step s = .next t) (k : Nat) : M.run (k + 1) s = M.run k t := by
  simp only [Host.Core.run, h]

/-- With nothing scheduled a run's first step is the engine's. -/
theorem run_succ {s t : State} (h : s.events = []) (he : engineStep s = .next t) (k : Nat) :
    Host.Core.run Sys2Proof.core (k + 1) s = Host.Core.run Sys2Proof.core k t := by
  have hs : Sys2Proof.core.step s = .next t := by
    change step s = _
    unfold step
    rw [h]
    exact he
  exact core_run_succ Sys2Proof.core hs k

/-- In PAD with a full budget only the finish is left. -/
theorem stepsLeft_pad_full {s : State} {p : List Word} (hf : s.fsm = .pad) (hp : p.length = Config.gridPixels) :
    stepsLeft s p = 1 := by
  simp only [stepsLeft, resume, hf, hp, Nat.sub_self]

/-- From any point of a decode in order: `stepsLeft` steps, busy until the last, end in `finish .ok` of a state whose pixels and
cursor are what the reference decode still owed. -/
theorem decode_runs (n : Nat) {s : State} {p : List Word} (hn : stepsLeft s p = n) (h : DecodeOk s) (hp : GridHolds s p)
    (he : s.events = []) :
    ∃ u : State, Host.Core.run Sys2Proof.core n s = .next (finish .ok u) ∧ DecodeOk u ∧ SameCommand s u ∧ u.fsm = .pad ∧
      GridHolds u (resume s p).pix ∧ (resume s p).pix.length = Config.gridPixels ∧ u.cursor.toNat = (resume s p).cur ∧
      ∀ j, j < n → ∃ v : State, Host.Core.run Sys2Proof.core j s = .next v ∧ v.busy = s.busy := by
  induction n generalizing s p with
  | zero =>
    rcases engineStep_decoding h hp with ⟨hf, hl, -⟩ | ⟨t, q, k, -, hs⟩
    · rw [stepsLeft_pad_full hf hl] at hn; omega
    · have := hs.steps; omega
  | succ n ih =>
    rcases engineStep_decoding h hp with ⟨hf, hl, hstep⟩ | ⟨t, q, k, hstep, hs⟩
    · rw [stepsLeft_pad_full hf hl] at hn
      obtain rfl : n = 0 := by omega
      have hr : resume s p = ⟨s.cursor.toNat, p, 0⟩ := by
        simp only [resume, hf, refPad, hl, Nat.sub_self, List.replicate_zero, List.append_nil]
      refine ⟨s, ?_, h, rfl, hf, by rw [hr]; exact hp, by rw [hr]; exact hl, by rw [hr], fun j hj => ?_⟩
      · rw [run_succ he hstep]; rfl
      · obtain rfl : j = 0 := by omega
        exact ⟨s, rfl, rfl⟩
    · have hev : t.events = [] := by rw [hs.same]; exact he
      obtain ⟨u, h1, h2, h3, h4, h5, h6, h7, h8⟩ := ih (by have := hs.steps; omega) hs.ok hs.holds hev
      have hsame : SameCommand s u := by
        unfold SameCommand
        rw [h3, hs.same]
      rw [hs.pix] at h5 h6
      rw [hs.cur] at h7
      refine ⟨u, by rw [run_succ he hstep]; exact h1, h2, hsame, h4, h5, h6, h7, fun j hj => ?_⟩
      cases j with
      | zero => exact ⟨s, rfl, rfl⟩
      | succ j =>
        obtain ⟨v, hv, hb⟩ := h8 j (by omega)
        refine ⟨v, by rw [run_succ he hstep]; exact hv, by rw [hb, hs.same]⟩

end Sys2Proof.Machine
end

