-- ==== Sys2Proof/Tests/Slice0.lean ====
section
/-! SUPPORT. Our own tests. Expected values are those of spec/95_test_vectors.md (the vector's name stands at each test) or are
written out by hand from the encodings of 30_encoding.md; and a witness for every statement that has hypotheses. -/

namespace Sys2Proof.Tests

open Sys2Proof Sys2Proof.Machine

/-! ### Helpers -/

/-- A view of the next state, or none. -/
def after {α : Type} (view : State → α) (o : Host.Outcome State Fault Refusal) : Option α :=
  match o with
  | .next t => some (view t)
  | .fault _ => none
  | .refused _ => none

/-- The fault an outcome ends in. -/
def faultOf (o : Host.Outcome State Fault Refusal) : Option Fault :=
  match o with
  | .next _ => none
  | .fault f => some f
  | .refused _ => none

/-- The refusal an outcome ends in. -/
def refusalOf (o : Host.Outcome State Fault Refusal) : Option Refusal :=
  match o with
  | .next _ => none
  | .fault _ => none
  | .refused r => some r

/-- What the decoder reads, as an Option. -/
def reads (slot : Slot) (bs : List Byte) : Option Instr := (decode slot bs).toOption.map Prod.fst

/-- Bytes from an address up. -/
def bytesFrom (a : Nat) : List Byte → Memory
  | [] => []
  | b :: bs => (a, b) :: bytesFrom (a + 1) bs

/-- The reset state of a SPRDEC with 64 bytes of AMEM, some of them written. -/
def withBytes (bs : List Byte) : State := { State.resetWith 64 with amem := bytesFrom 0 bs }

/-- Archive A of spec/95_test_vectors.md. -/
def archiveA : List Byte :=
  [0x78, 0x56, 0x34, 0x12, 0x04, 0x00, 0x16, 0x00, 0x00, 0x00, 0x25, 0x00, 0x00, 0x00, 0x00, 0x00, 0x00, 0x00, 0x2B, 0x00, 0x00,
    0x00] ++
  [0x00, 0x00, 0x00, 0x00, 0x00, 0x04, 0x00, 0x02, 0x00, 0x0A, 0x14, 0x1E, 0x28, 0x32, 0x3C, 0x11, 0x22, 0x33, 0x44, 0x55, 0x66,
    0x00] ++
  [0x00, 0x00, 0x00, 0x00, 0x00, 0x00, 0x01, 0x00, 0xC8, 0x64, 0x32]

/-- Archive A in AMEM, ARCHIVE_LEN written, nothing loaded. -/
def placedA : State := { withBytes archiveA with archiveLen := 55 }

/-- Archive A loaded (LD-01). -/
def loadedA : State :=
  { placedA with loaded := true, signature := 0x12345678, spriteCount := 4, op := 1, done := true }

/-- A command accepted (R74). -/
def inExec (op : BitVec 4) (s : State) : State := accept op s

/-- The DEC-06 block in AMEM from address 0, as the block to decode. -/
def blockState : State :=
  { withBytes [0xAA, 0xBB, 0xCC, 0x00, 0x00, 0x04, 0x00, 0x02, 0x00, 0x0A, 0x14, 0x1E, 0x28, 0x32, 0x3C] with
    archiveLen := 15, blkLen := 15 }

/-- The decode of that block, standing at a control state, a cursor and a run. -/
def atStep (fsm : FsmState) (cursor : Word) (run : Half) : State :=
  { blockState with busy := true, op := 4, fsm := fsm, cursor := cursor, run := run }

/-- A writer's position. -/
def atPosition (row col : BitVec 5) (pixcount : BitVec 11) : State :=
  { State.resetWith 64 with row := row, col := col, pixcount := pixcount }

/-! ### WellFormed: an ill-formed term for each check -/

theorem test_illFormed_reserved67_low : ¬WellFormed (.reserved67 5) := by decide
theorem test_illFormed_reserved67_high : ¬WellFormed (.reserved67 8) := by decide
theorem test_illFormed_reserved8F : ¬WellFormed (.reserved8F 7) := by decide
theorem test_wellFormed_reserved : WellFormed (.reserved67 6) ∧ WellFormed (.reserved67 7) ∧ WellFormed (.reserved8F 8) := by decide

/-! ### Decoding: a word for every constructor, written out from R56, R58, R59, R64 and R65 -/

theorem test_decode_nop : reads .command [0x00, 0x00, 0x00, 0x00] = some .nop := by decide
theorem test_decode_nop_ignored : reads .command [0x10, 0x00, 0x00, 0x00] = some .nop := by decide
theorem test_decode_load : reads .command [0x01, 0x00, 0x00, 0x00] = some .load := by decide
theorem test_decode_unload : reads .command [0x02, 0x00, 0x00, 0x00] = some .unload := by decide
theorem test_decode_extract : reads .command [0x03, 0x00, 0x00, 0x00] = some .extract := by decide
theorem test_decode_decode : reads .command [0x04, 0x00, 0x00, 0x00] = some .decode := by decide
theorem test_decode_extractDecode : reads .command [0x05, 0x00, 0x00, 0x00] = some .extractDecode := by decide
theorem test_decode_reserved67 : reads .command [0x06, 0x00, 0x00, 0x00] = some (.reserved67 6) := by decide
theorem test_decode_reserved8F : reads .command [0xF9, 0xFF, 0xFF, 0xFF] = some (.reserved8F 9) := by decide
theorem test_decode_hdrSig : reads .hdrSig [0x78, 0x56, 0x34, 0x12] = some (.hdrSig 0x12345678) := by decide
theorem test_decode_hdrCount : reads .hdrCount [0x04, 0x01] = some (.hdrCount 260) := by decide
theorem test_decode_offsetEntry :
    reads (.offsetEntry .start) [0x16, 0x00, 0x00, 0x80] = some (.offsetEntry .start 0x80000016) := by decide
theorem test_decode_key : reads .key [0x01, 0x02, 0x03] = some (.key 1 2 3) := by decide
theorem test_decode_dsize : reads .dsize [0x34, 0x12] = some (.dsize 0x1234) := by decide
theorem test_decode_trun : reads .trun [0x04, 0x05] = some (.trun 1284) := by decide
theorem test_decode_crun : reads .crun [0xC8, 0x64] = some (.crun 25800) := by decide
theorem test_decode_rgb : reads .rgb [0x0A, 0x14, 0x1E] = some (.rgb 10 20 30) := by decide
theorem test_decode_short : reads .rgb [0x0A, 0x14] = none ∧ reads .command [0x01] = none := by decide
theorem test_tableWord : decodeTableWord 8 4 = some .decode ∧ decodeTableWord 32 0xFFFFFFF9 = some (.reserved8F 9) := by decide

/-! ### One step per instruction -/

/-- HI-10. -/
theorem test_nop : after (fun t => (statusWord t, t.fsm)) (exec .nop { loadedA with done := false }) = some (0x4, .idle) := by
  decide

/-- LD-01. -/
theorem test_load : after (fun t => (statusWord t, t.signature, t.spriteCount)) (exec .load (inExec 1 placedA)) =
    some (0x6, 0x12345678, 4) := by decide

/-- LD-10: 22 > 21. -/
theorem test_load_format : after (fun t => (statusWord t, t.spriteCount)) (exec .load (inExec 1 { placedA with archiveLen := 21 })) =
    some (0x12, 0) := by decide

/-- HI-13. -/
theorem test_unload : after (fun t => (statusWord t, t.signature, t.spriteCount, t.archiveLen)) (exec .unload (inExec 2 loadedA)) =
    some (0x2, 0, 0, 55) := by decide

/-- EXT-03: the zero-end quirk. -/
theorem test_extract : after (fun t => (statusWord t, t.blkStart, t.blkLen)) (exec .extract (inExec 3 { loadedA with spriteId := 2 })) =
    some (0x6, 37, 18) := by decide

/-- EXT-04. -/
theorem test_extract_zero : after (fun t => (statusWord t, t.blkLen)) (exec .extract (inExec 3 { loadedA with spriteId := 3 })) =
    some (0x226, 0) := by decide

/-- DEC-21: the sum is exact and does not wrap. -/
theorem test_decode_range : after (fun t => (statusWord t, t.cursor))
    (exec .decode (inExec 4 { placedA with blkStart := 0xFFFFFFFF, blkLen := 1 })) = some (0x42, 0) := by decide

/-- DEC-23, its first step. -/
theorem test_decode_start : after (fun t => (t.fsm, t.cursor))
    (exec .decode (inExec 4 { placedA with blkStart := 43, blkLen := 12 })) = some (.fetchT, 5) := by decide

/-- EXT-05, its first step. -/
theorem test_extractDecode : after (fun t => (t.fsm, t.blkStart, t.blkLen))
    (exec .extractDecode (inExec 5 { loadedA with spriteId := 4 })) = some (.fetchT, 43, 12) := by decide

/-- EXT-13. -/
theorem test_extractDecode_notLoaded : after statusWord (exec .extractDecode (inExec 5 (withBytes []))) = some 0x32 := by decide

theorem test_reserved67 : after statusWord (exec (.reserved67 7) (inExec 7 loadedA)) = some 0x66 := by decide

/-- HI-11. -/
theorem test_reserved8F : after (fun t => (statusWord t, fsmWord t)) (exec (.reserved8F 9) (inExec 9 loadedA)) = some (0x66, 0x90) := by
  decide

theorem test_hdrSig : after State.signature (exec (.hdrSig 0xDEADBEEF) placedA) = some 0xDEADBEEF := by decide

/-- LD-06: 10 ≤ 10. -/
theorem test_hdrCount : after statusWord (exec (.hdrCount 1) (inExec 1 { placedA with archiveLen := 10 })) = some 0x6 := by decide

/-- LD-05: 10 > 9. -/
theorem test_hdrCount_format : after statusWord (exec (.hdrCount 1) (inExec 1 { placedA with archiveLen := 9 })) = some 0x12 := by decide

/-- EXT-03, from the entry that is the end of sprite 2: a zero end is the archive's. -/
theorem test_offsetEntry_stop : after (fun t => (t.blkStart, t.blkLen))
    (exec (.offsetEntry .stop 0) (inExec 3 { loadedA with spriteId := 2 })) = some (37, 18) := by decide

/-- EXT-05, from the entry that is the start of sprite 4. -/
theorem test_offsetEntry_start : after (fun t => (t.blkStart, t.blkLen, t.fsm))
    (exec (.offsetEntry .start 43) (inExec 5 { loadedA with spriteId := 4 })) = some (43, 12, .fetchT) := by decide

theorem test_key : after State.cursor (exec (.key 1 2 3) blockState) = some 3 := by decide
theorem test_dsize : after State.cursor (exec (.dsize 7) blockState) = some 5 := by decide

/-- P3, step 7. -/
theorem test_trun : after (fun t => (t.run, t.cursor, t.fsm)) (exec (.trun 1284) (atStep .fetchT 12 0)) = some (1284, 14, .emitT) := by
  decide

/-- P3, step 4. -/
theorem test_crun : after (fun t => (t.run, t.cursor, t.fsm)) (exec (.crun 3) (atStep .fetchC 7 0)) = some (3, 9, .emitC) := by decide

/-- P3, step 5. -/
theorem test_rgb : after (fun t => (t.run, t.cursor, t.pixcount, t.col, gridWord t 0)) (exec (.rgb 1 2 3) (atStep .emitC 9 3)) =
    some (2, 12, 1, 1, some 0xFF030201) := by decide

/-! ### The engine's own steps, the writer and the host port -/

/-- The token at the cursor is the one that runs: T = 4 at block byte 5 of DEC-06. -/
theorem test_fetchT : after (fun t => (t.run, t.cursor, t.fsm)) (step (atStep .fetchT 5 0)) = some (4, 7, .emitT) := by decide

theorem test_emitC_rgb : after (fun t => (t.cursor, gridWord t 0)) (step (atStep .emitC 9 2)) = some (12, some 0xFF1E140A) := by decide

/-- P3, step 6. -/
theorem test_emitC_shortTail : after (fun t => (t.shortTail, t.run, t.fsm)) (step (atStep .emitC 13 2)) = some (true, 0, .fetchT) := by
  decide

/-- P3, step 1031. -/
theorem test_emitT_clip : after (fun t => (t.runClipped, t.run, t.fsm))
    (step { atStep .emitT 14 261 with pixcount := 1024, full := true }) = some (true, 0, .fetchC) := by decide

/-- P3, step 1033. -/
theorem test_pad_finish : after (fun t => (statusWord t, fsmWord t))
    (step { atStep .pad 14 0 with pixcount := 1024, full := true }) = some (0x2, 0x40) := by decide

/-- GW-01. -/
theorem test_writer_row : (fun t => (gridWord t 31, rowcolWord t, t.pixcount)) (writePixel 7 (atPosition 0 31 31)) =
    (some 7, 0x100, 32) := by decide

/-- GW-02. -/
theorem test_writer_full : (fun t => (gridWord t 1023, rowcolWord t, t.pixcount)) (writePixel 7 (atPosition 31 31 1023)) =
    (some 7, 0x10000, 1024) := by decide

/-- GW-05. -/
theorem test_px : px 0x0A 0x14 0x1E 255 = 0xFF1E140A := by decide

/-- HI-02. -/
theorem test_cmd_accepts : after (fun t => (statusWord t, fsmWord t)) (hostWrite 0x000 .word 4 loadedA) = some (0x5, 0x41) := by decide

/-- HI-03. -/
theorem test_cmd_dropped : after (fun t => (statusWord t, t.op)) (hostWrite 0x000 .word 1 (inExec 4 loadedA)) = some (0xD, 4) := by decide

/-- HI-07. -/
theorem test_archiveLen_refused : after (fun t => (statusWord t, t.archiveLen)) (hostWrite 0x00C .word 60 loadedA) = some (0xE, 55) := by
  decide

/-- HI-17. -/
theorem test_read_reserved : after State.response (hostRead 0x100 .word loadedA) = some (some (.word 0)) := by decide

/-- R132 (I12). -/
theorem test_grid_unwritten : faultOf (hostRead 0x1000 .word loadedA) = some .gridUnwritten := by decide

/-- R135, H-2 (I20); and R70 (I18). -/
theorem test_refusals : refusalOf (hostAmemWrite 54 0 loadedA) = some .amemDuty ∧
    refusalOf (hostRead 0x002 .word loadedA) = some .busAccess := by decide

/-- P4 lines 1 and 2 as a host program: the schedule it puts up. -/
theorem test_program : (scheduleProgram [.wr .spriteId 1, .run 3] (withBytes [])).events =
    [.write 0x018 .word 1, .write 0x000 .word 3, .wait] := by decide

/-- R68: the directives of archive A's header. -/
theorem test_assemble : assemble [.sig 0x12345678, .count 4, .off 22] = archiveA.take 10 := by decide

/-- The reference decode of a block with no stream is 1024 transparent pixels (DEC-02). -/
theorem test_reference_empty : refLoop (fun _ => 0) 3 3 (refStart 3) = { cur := 3, pix := [], tokens := 0 } := by decide

/-! ### Placing an instruction at reset -/

/-- The view the host's question needs: the step after placing a command word at reset has a next state. -/
theorem test_fetch_nop : after State.busy (step (State.reset.withFetchWord 8 0)) = some false := by decide
theorem test_fetch_load : after (fun t => (t.err, t.fsm)) (step (State.reset.withFetchWord 8 1)) = some (.format, .idle) := by decide
theorem test_fetch_unload : after State.done (step (State.reset.withFetchWord 8 2)) = some true := by decide
theorem test_fetch_extract : after State.err (step (State.reset.withFetchWord 8 3)) = some .notLoaded := by decide
theorem test_fetch_decode : after State.fsm (step (State.reset.withFetchWord 8 4)) = some .fetchT := by decide
theorem test_fetch_extractDecode : after State.err (step (State.reset.withFetchWord 8 5)) = some .notLoaded := by decide
theorem test_fetch_reserved : after State.err (step (State.reset.withFetchWord 8 6)) = some .badCmd ∧
    after State.op (step (State.reset.withFetchWord 8 0xF)) = some 15 := by decide

/-! ### States that meet R39 -/

/-- R39 for a state that is not decoding, as a question that can be decided. -/
abbrev StillInv (s : State) : Prop :=
  s.fsm.decoding = false ∧ (s.busy = true ↔ s.fsm ≠ .idle) ∧ (s.done = true → s.busy = false) ∧
    s.pixcount.toNat = 1024 * s.full.toNat + 32 * s.row.toNat + s.col.toNat ∧ (s.full = true → s.row = 0 ∧ s.col = 0) ∧
    (s.loaded = true → s.archiveLen.toNat ≤ s.amemSize.toNat ∧
      Config.headerLen + 4 * s.spriteCount.toNat ≤ s.archiveLen.toNat ∧
      le32 s 0 = some s.signature.toNat ∧ le16 s 4 = some s.spriteCount.toNat) ∧
    s.run = 0 ∧ (s.fsm = .exec → s.op.toNat ≠ 0) ∧
    (s.amem.wf ∧ ∀ c ∈ s.amem, c.1 < s.amemSize.toNat) ∧ (s.grid.wf ∧ ∀ c ∈ s.grid, c.1 < Config.gridPixels)

theorem inv_of_still {s : State} (h : StillInv s) : Inv s := by
  obtain ⟨h1, h2, h3, h4, h5, h6, h7, h8, h9, h10⟩ := h
  exact ⟨h2, h3, h4, h5, fun hd => absurd (h1.symm.trans hd) (by decide), fun hd => absurd (h1.symm.trans hd) (by decide), h6,
    fun _ _ => h7, h8, h9, h10⟩

theorem loadedA_inv : Inv loadedA := inv_of_still (by decide)

theorem loadedA_sprite_inv : Inv { loadedA with spriteId := 4 } := inv_of_still (by decide)

/-- A decode in EXEC. -/
def execBlock : State := { blockState with busy := true, op := 4, fsm := .exec }

theorem execBlock_inv : Inv execBlock := inv_of_still (by decide)

/-- The same decode, started. -/
def startedBlock : State := startDecode execBlock

theorem startedBlock_inv : Inv startedBlock := by
  obtain ⟨h1, h2, h3⟩ := startDecode_ok (s := execBlock) (by decide)
  exact ⟨by decide, by decide, h1.positioned.position, h1.positioned.fullOrigin, fun _ => ⟨h1.rangeOk, h1.cursorLe⟩,
    fun _ => ⟨[], h2, congrArg RefRun.cur h3, congrArg RefRun.pix h3⟩, by decide, h1.runZero, by decide, by decide, by decide⟩

/-- A decode of the empty block (DEC-01), in PAD with one pixel written. -/
def paddingState : State :=
  { State.resetWith 64 with busy := true, op := 4, fsm := .pad, cursor := 3, pixcount := 1, col := 1, grid := [(0, 0)] }

theorem paddingState_inv : Inv paddingState := by
  refine ⟨by decide, by decide, by decide, by decide, fun _ => by decide, fun _ => ⟨[0], ⟨rfl, fun k hk => ?_⟩, rfl, ?_⟩, by decide,
    by decide, by decide, by decide, by decide⟩
  · obtain rfl : k = 0 := by simpa using hk
    rfl
  · exact (refPad_succ [] (by decide)).symm

/-! ### Witnesses: a state and operands that meet the hypotheses of each statement, clause by clause at the ends of its range -/

theorem witness_OpcodeMapSelectsCommand :
    (0xFFFFFFF0#32).toNat % 16 = 0 ∧ (1#32).toNat % 16 = 1 ∧ (2#32).toNat % 16 = 2 ∧ (3#32).toNat % 16 = 3 ∧
      (4#32).toNat % 16 = 4 ∧ (5#32).toNat % 16 = 5 ∧ (6#32).toNat % 16 = 6 ∧ (7#32).toNat % 16 = 7 ∧
      8 ≤ (8#32).toNat % 16 ∧ 8 ≤ (0xFFFFFFFF#32).toNat % 16 := by decide

theorem witness_DecodeInvertsEncode : WellFormed (.reserved8F 15) ∧ WellFormed (.rgb 0 0 255) := by decide

theorem witness_EncodeInvertsDecode :
    [(1 : Byte), 2].length < Slot.length .rgb ∧ Slot.length .rgb ≤ [(1 : Byte), 2, 3].length ∧
      Slot.length .command ≤ [(1 : Byte), 0, 0, 0xFF].length := by decide

theorem witness_FetchedCommandRuns : decodeTableWord 8 0 = some .nop ∧ decodeTableWord 32 0xFFFFFFF1 = some .load := by decide

theorem witness_StepRunsDecodedInstruction :
    (selectedSlot (atStep .fetchT 13 0) = some .trun ∧ blkBytes (atStep .fetchT 13 0) 13 2 = some [0x32, 0x3C] ∧
      (atStep .fetchT 13 0).events = []) ∧
    (selectedSlot (atStep .fetchC 7 0) = some .crun ∧ blkBytes (atStep .fetchC 7 0) 7 2 = some [2, 0]) ∧
    (selectedSlot (atStep .emitC 12 1) = some .rgb ∧ blkBytes (atStep .emitC 12 1) 12 3 = some [0x28, 0x32, 0x3C]) ∧
    (execBlock.fsm = .exec ∧ execBlock.op.toNat ≠ 0 ∧ execBlock.events = []) := by decide

theorem witness_StepPerformsNextEvent : loadedA.events = [] ∧ execBlock.busy = true ∧ loadedA.busy = false := by decide

theorem witness_CmdWriteAccepts : execBlock.busy = true ∧ loadedA.busy = false ∧ (0x10#32).extractLsb' 0 4 = 0 ∧
    (0xFFFFFFFF#32).extractLsb' 0 4 ≠ 0 := by decide

theorem witness_OtherWritesIgnored :
    ((0x010#13).toNat % 4 = 0 ∧ (0x010#13).toNat = 0x010) ∧ ((0x024#13).toNat % 4 = 0 ∧ 0x024 ≤ (0x024#13).toNat) ∧
      ((0x1FFC#13).toNat % 4 = 0 ∧ 0x024 ≤ (0x1FFC#13).toNat) ∧ (0x1FFF#13).toNat % 4 ≠ 0 := by decide

/-- HOST_VIOL set, and a STATUS write with bit 3 next. -/
def violated : State := { loadedA with hostViol := true, events := [.write 0x008 .word 8] }

theorem witness_HostViolIsSticky :
    ∃ t, step violated = .next t ∧ violated.hostViol = true ∧ t.hostViol = false := ⟨_, rfl, rfl, rfl⟩

theorem witness_WindowReadsRegisters : (0x038#13).toNat % 4 = 0 ∧ 0x038 ≤ (0x038#13).toNat ∧ (0xFFC#13).toNat % 4 = 0 ∧
    (0xFFC#13).toNat < 0x1000 := by decide

theorem witness_GridWindowReads :
    (0x1000#13).toNat = 0x1000 + 4 * 0 ∧ (0x1FFC#13).toNat = 0x1000 + 4 * 1023 ∧ gridWord paddingState 0 = some 0 ∧
      gridWord paddingState 1 = none ∧ gridWord paddingState 1023 = none := by decide

theorem witness_ReadsHaveNoSideEffect :
    (∃ t, hostRead 0x008 .word loadedA = .next t) ∧ ∃ t, hostAmemRead 54 loadedA = .next t := ⟨⟨_, rfl⟩, _, rfl⟩

theorem witness_InterruptFollowsDone : (2#32).getLsbD 0 = false ∧ (2#32).getLsbD 1 = true ∧ loadedA.busy = false ∧
    (9#32).extractLsb' 0 4 ≠ 0 := by decide

/-- A CTRL read next, in IDLE. -/
def readingState : State := { loadedA with events := [.read 0x004 .word] }

theorem witness_IdleEngineTakesNoStep : readingState.fsm = .idle ∧ (∃ t, step readingState = .next t) ∧
    (∀ off size w es, readingState.events ≠ .write off size w :: es) ∧
    ∀ es, readingState.events ≠ .reset :: es :=
  ⟨rfl, ⟨_, rfl⟩, (fun _ _ _ _ h => by cases h), (fun _ h => by cases h)⟩

theorem witness_NopHasNoEffect : (0xFFFFFFF0#32).extractLsb' 0 4 = 0 ∧ loadedA.busy = false ∧ execBlock.busy = true := by decide

/-- Archive A with another ARCHIVE_LEN written. -/
def placedLen (len : Word) : State := { placedA with archiveLen := len }

/-- LOAD's clauses at their ends: 65 > 64; 5 < 6; 6 and 21 with a table that does not fit; 22 = 22 and 64 = 64. -/
theorem witness_LoadParsesHeader :
    (placedLen 65).amemSize.toNat < (placedLen 65).archiveLen.toNat ∧
      ((placedLen 5).archiveLen.toNat ≤ (placedLen 5).amemSize.toNat ∧ (placedLen 5).archiveLen.toNat < 6) ∧
      (6 ≤ (placedLen 6).archiveLen.toNat ∧ (placedLen 6).archiveLen.toNat < 6 + 4 * 4) ∧
      ((placedLen 21).archiveLen.toNat ≤ (placedLen 21).amemSize.toNat ∧ (placedLen 21).archiveLen.toNat < 6 + 4 * 4) ∧
      6 + 4 * 4 ≤ (placedLen 22).archiveLen.toNat ∧ (placedLen 64).archiveLen.toNat ≤ (placedLen 64).amemSize.toNat ∧
      le32 (placedLen 22) 0 = some (0x12345678#32).toNat ∧ le16 (placedLen 22) 4 = some (4#16).toNat := by decide

theorem witness_HeaderTokensMakeUpLoad :
    6 + 4 * (1#16).toNat ≤ (placedLen 10).archiveLen.toNat ∧ (placedLen 9).archiveLen.toNat < 6 + 4 * (1#16).toNat ∧ 6 ≤ placedA.archiveLen.toNat ∧
      placedA.archiveLen.toNat ≤ placedA.amemSize.toNat ∧ amemBytes placedA 0 4 = some [0x78, 0x56, 0x34, 0x12] ∧
      reads .hdrSig [0x78, 0x56, 0x34, 0x12] = some (.hdrSig 0x12345678) ∧ amemBytes placedA 4 2 = some [4, 0] ∧
      reads .hdrCount [4, 0] = some (.hdrCount 4) := by decide

theorem witness_UnloadDiscardsArchive : (0#32).toNat < loadedA.amemSize.toNat ∧ (63#32).toNat < loadedA.amemSize.toNat := by decide

theorem witness_ReservedOpcodesFinishBadCmd : 6 ≤ (6#4).toNat ∧ 6 ≤ (15#4).toNat := by decide

theorem witness_ExtractReturnsRange :
    (withBytes []).loaded = false ∧ loadedA.loaded = true ∧ resolve loadedA = some (.notFound .idRange) ∧
      resolve { loadedA with spriteId := 1 } = some (.found 22 15) := by decide

theorem witness_ExtractDecodeStartsBlock : loadedA.loaded = true ∧ Inv loadedA ∧
    resolve { loadedA with spriteId := 3 } = some (.notFound .zeroOffset) ∧
    resolve { loadedA with spriteId := 4 } = some (.found 43 12) ∧ Inv { loadedA with spriteId := 4 } :=
  ⟨rfl, loadedA_inv, by decide, by decide, loadedA_sprite_inv⟩

/-- A table of the given entries, loaded in an archive of the given length, with SPRITE_ID written. -/
def tableState (entries : List Word) (len id : Word) : State :=
  { withBytes ([0, 0, 0, 0] ++ leBytes 2 entries.length ++ entries.flatMap fun e => leBytes 4 e.toNat) with
    archiveLen := len, loaded := true, spriteCount := BitVec.ofNat 16 entries.length, spriteId := id }

/-- `resolve`'s clauses, each in a state that meets R39, at the first and the last sprite, and at size 1, 0 and one past the end. -/
theorem witness_ResolveComputesRange :
    Inv (tableState [1] 10 0) ∧ Inv (tableState [1] 10 2) ∧ Inv (tableState [] 6 1) ∧
      (Inv (tableState [0] 10 1) ∧ offEntry (tableState [0] 10 1) 1 = some 0) ∧
      (Inv (tableState [1] 10 1) ∧ offEntry (tableState [1] 10 1) 1 = some 1) ∧
      (Inv (tableState [9] 10 1) ∧ resolve (tableState [9] 10 1) = some (.found 9 1)) ∧
      (Inv (tableState [10] 10 1) ∧ resolve (tableState [10] 10 1) = some (.notFound .emptyRange)) ∧
      (Inv (tableState [5, 14] 14 1) ∧ resolve (tableState [5, 14] 14 1) = some (.found 5 9)) ∧
      (Inv (tableState [5, 15] 14 1) ∧ resolve (tableState [5, 15] 14 1) = some (.notFound .pastEnd)) := by
  refine ⟨inv_of_still (by decide), inv_of_still (by decide), inv_of_still (by decide), ⟨inv_of_still (by decide), by decide⟩,
    ⟨inv_of_still (by decide), by decide⟩, ⟨inv_of_still (by decide), by decide⟩, ⟨inv_of_still (by decide), by decide⟩,
    ⟨inv_of_still (by decide), by decide⟩, ⟨inv_of_still (by decide), by decide⟩⟩

/-- R89's cases, in the order of the statement: id 0, id > N, N = 0, start 0, next 0, id N, next = start, next < start,
start ≥ L, next > L, and a start inside the table. -/
theorem witness_ResolveCornerCases :
    Inv (tableState [1] 10 0) ∧ Inv (tableState [1] 10 2) ∧ Inv (tableState [] 6 1) ∧ Inv (tableState [0] 10 1) ∧
      (Inv (tableState [13, 0] 14 1) ∧ offEntry (tableState [13, 0] 14 1) 2 = some 0) ∧
      (Inv (tableState [1, 13] 14 2) ∧ offEntry (tableState [1, 13] 14 2) 2 = some 13) ∧
      (Inv (tableState [7, 7] 14 1) ∧ offEntry (tableState [7, 7] 14 1) 2 = some 7) ∧
      (Inv (tableState [7, 6] 14 1) ∧ offEntry (tableState [7, 6] 14 1) 2 = some 6) ∧
      (Inv (tableState [1, 14] 14 2) ∧ offEntry (tableState [1, 14] 14 2) 2 = some 14) ∧
      (Inv (tableState [7, 15] 14 1) ∧ offEntry (tableState [7, 15] 14 1) 2 = some 15) ∧
      (Inv (tableState [13, 14] 14 1) ∧ offEntry (tableState [13, 14] 14 1) 1 = some 13) := by
  refine ⟨inv_of_still (by decide), inv_of_still (by decide), inv_of_still (by decide), inv_of_still (by decide),
    ⟨inv_of_still (by decide), by decide⟩, ⟨inv_of_still (by decide), by decide⟩, ⟨inv_of_still (by decide), by decide⟩,
    ⟨inv_of_still (by decide), by decide⟩, ⟨inv_of_still (by decide), by decide⟩, ⟨inv_of_still (by decide), by decide⟩,
    ⟨inv_of_still (by decide), by decide⟩⟩

theorem witness_OffsetEntryRoles :
    let s : State := { inExec 3 loadedA with spriteId := 2 }
    let u : State := { inExec 5 loadedA with spriteId := 4 }
    (Inv s ∧ s.loaded = true ∧ 1 ≤ s.spriteId.toNat ∧ s.spriteId.toNat < s.spriteCount.toNat ∧ s.op = 3 ∧
      offEntry s 2 = some (37#32).toNat ∧ offEntry s 3 = some (0#32).toNat) ∧
    Inv u ∧ u.spriteId.toNat ≤ u.spriteCount.toNat ∧ u.op = 5 ∧ offEntry u 4 = some (43#32).toNat :=
  ⟨⟨inv_of_still (by decide), by decide⟩, inv_of_still (by decide), by decide⟩

/-- DEC-23: 55 = 55 passes; 56 > 55 fails, and so does an archive longer than AMEM (DEC-22). -/
theorem witness_DecodeChecksRangeAndStarts :
    let s : State := { placedA with blkStart := 43, blkLen := 12 }
    let u : State := { placedA with blkStart := 43, blkLen := 13 }
    let v : State := { placedA with amemSize := 54 }
    (s.archiveLen.toNat ≤ s.amemSize.toNat ∧ s.blkStart.toNat + s.blkLen.toNat = s.archiveLen.toNat) ∧
      u.archiveLen.toNat < u.blkStart.toNat + u.blkLen.toNat ∧ v.amemSize.toNat < v.archiveLen.toNat := by decide

theorem witness_BlockHeaderTokensAreSkipped : RangeOk blockState ∧ 5 < blockState.blkLen.toNat ∧
    RangeOk { blockState with blkLen := 5 } ∧ (∃ t, exec .decode blockState = .next t) ∧
    ∃ u v, exec (.key 1 2 3) blockState = .next u ∧ exec (.dsize 4) u = .next v :=
  ⟨by decide, by decide, by decide, ⟨_, rfl⟩, _, _, rfl, rfl⟩

theorem witness_FetchTStepReadsT :
    let s := atStep .fetchT 13 0
    let u := atStep .fetchT 14 0
    let v : State := { atStep .fetchT 13 0 with pixcount := 1023 }
    let w : State := { atStep .fetchT 13 0 with pixcount := 1024, full := true }
    (s.fsm = .fetchT ∧ RangeOk s ∧ s.cursor.toNat + 2 = s.blkLen.toNat ∧ s.pixcount.toNat < 1024) ∧ v.pixcount.toNat < 1024 ∧
      u.blkLen.toNat < u.cursor.toNat + 2 ∧ 1024 ≤ w.pixcount.toNat := by decide

theorem witness_EmitTStepEmitsTransparent :
    (atStep .emitT 7 0).fsm = .emitT ∧ (atStep .emitT 7 0).run = 0 ∧ (atStep .emitT 7 1).run ≠ 0 ∧
      (atStep .emitT 7 1).pixcount ≠ 1024 ∧ ({ atStep .emitT 7 1 with pixcount := 1024 } : State).pixcount = 1024 := by decide

theorem witness_FetchCStepReadsC :
    let s := atStep .fetchC 13 0
    let u := atStep .fetchC 14 0
    (s.fsm = .fetchC ∧ RangeOk s ∧ s.cursor.toNat + 2 = s.blkLen.toNat) ∧ u.fsm = .fetchC ∧
      u.blkLen.toNat < u.cursor.toNat + 2 := by decide

theorem witness_EmitCStepEmitsColored :
    let s := atStep .emitC 12 1
    let u := atStep .emitC 13 1
    let v : State := { atStep .emitC 12 1 with pixcount := 1024, full := true }
    (s.fsm = .emitC ∧ s.run ≠ 0 ∧ s.pixcount ≠ 1024 ∧ s.cursor.toNat + 3 = s.blkLen.toNat ∧ RangeOk s) ∧
      (u.run ≠ 0 ∧ u.blkLen.toNat < u.cursor.toNat + 3) ∧ (v.run ≠ 0 ∧ v.pixcount = 1024) ∧ (atStep .emitC 12 0).run = 0 := by
  decide

theorem witness_PadStepPadsOrFinishes :
    let s : State := { paddingState with pixcount := 1023, row := 31, col := 31 }
    let u : State := { paddingState with pixcount := 1024, row := 0, col := 0, full := true }
    (s.fsm = .pad ∧ s.pixcount.toNat < 1024) ∧ u.fsm = .pad ∧ 1024 ≤ u.pixcount.toNat := by decide

theorem witness_AdvanceWalksRowMajor :
    (atPosition 0 30 30).col ≠ 31 ∧ (atPosition 30 31 991).col = 31 ∧ (atPosition 30 31 991).row ≠ 31 ∧
      (atPosition 31 31 1023).row = 31 ∧ (1024 : Nat) ≤ 1024 ∧ (1023 : Nat) < 1024 := by decide

theorem witness_EngineWritesTwoPixelKinds : ∃ t, engineStep paddingState = .next t := ⟨_, rfl⟩

theorem witness_GridWrittenOnceInOrder : Inv paddingState ∧ paddingState.fsm.decoding = true ∧
    ∃ t, engineStep paddingState = .next t ∧ t.pixcount = 2 := ⟨paddingState_inv, rfl, _, rfl, rfl⟩

theorem witness_MemReadIsLittleEndian : 60 + 4 ≤ loadedA.amemSize.toNat ∧ 64 + 0 ≤ loadedA.amemSize.toNat := by decide

theorem witness_AmemWritesKeepDuties : (63#32).toNat < loadedA.amemSize.toNat ∧ loadedA.busy = false ∧ execBlock.busy = true ∧ loadedA.loaded = true ∧
    (54#32).toNat < loadedA.archiveLen.toNat ∧ loadedA.archiveLen.toNat ≤ (55#32).toNat ∧ placedA.loaded = false ∧
    ∃ t, engineStep paddingState = .next t := ⟨by decide, by decide, by decide, by decide, by decide, by decide, by decide, _, rfl⟩

theorem witness_OffsetTableAfterLoad : ∃ t, exec .load (inExec 1 placedA) = .next t ∧ t.err = .ok ∧ t.spriteCount = 4 :=
  ⟨_, rfl, rfl, rfl⟩

theorem witness_RepeatedLoadSucceeds : Inv loadedA ∧ loadedA.loaded = true ∧ Inv (inExec 1 loadedA) :=
  ⟨loadedA_inv, rfl, inv_of_still (by decide)⟩

theorem witness_EngineFrame : ∃ t, engineStep (inExec 1 placedA) = .next t ∧ t.loaded ≠ placedA.loaded := ⟨_, rfl, by decide⟩

theorem witness_ErrorsArePrecise : ∃ t, (inExec 9 loadedA).err = .ok ∧ (inExec 9 loadedA).op.toNat ≠ 0 ∧
    exec (decodeOp (inExec 9 loadedA).op) (inExec 9 loadedA) = .next t ∧ t.err ≠ .ok := ⟨_, by decide, by decide, rfl, by decide⟩

theorem witness_StepKeepsCanonicalMemories : paddingState.amem.wf ∧ paddingState.grid.wf ∧ loadedA.amem.wf ∧
    ∃ t, step paddingState = .next t := ⟨by decide, by decide, by decide, _, rfl⟩

theorem witness_StepKeepsR39 : Inv startedBlock ∧ Inv loadedA ∧ ∃ t, step startedBlock = .next t :=
  ⟨startedBlock_inv, loadedA_inv, _, rfl⟩

theorem witness_ReachableStatesMeetR39 :
    (bytesFrom 0 archiveA).wf ∧ (∀ c ∈ bytesFrom 0 archiveA, c.1 < (64#32).toNat) ∧
      ∃ t, Reachable { State.resetWith 64 with amem := bytesFrom 0 archiveA, events := [.read 0x004 .word] } t ∧
        t.response = some (.word 0) :=
  ⟨by decide, by decide, _, .next .start rfl, rfl⟩

theorem witness_GridHoldsDecodedPrefix : Inv paddingState ∧ paddingState.fsm.decoding = true ∧ 0 < paddingState.pixcount.toNat :=
  ⟨paddingState_inv, by decide, by decide⟩

theorem witness_EngineStepNeverStops : Inv startedBlock ∧ Inv execBlock := ⟨startedBlock_inv, execBlock_inv⟩

theorem witness_EveryCommandFinishes : Inv execBlock ∧ execBlock.fsm = .exec ∧ execBlock.events = [] ∧ execBlock.op = 4 ∧
    Inv (inExec 9 loadedA) ∧ (inExec 9 loadedA).fsm = .exec ∧ (inExec 9 loadedA).op ≠ 4 :=
  ⟨execBlock_inv, rfl, rfl, rfl, inv_of_still (by decide), rfl, by decide⟩

theorem witness_DecodeComputesReference : ∃ u, Inv execBlock ∧ execBlock.fsm = .exec ∧ execBlock.events = [] ∧
    engineStep execBlock = .next u ∧ u.fsm = .fetchT := ⟨_, execBlock_inv, rfl, rfl, rfl, rfl⟩

/-- A decode of the empty block, all its pixels written: PAD with a full budget. -/
def paddedState : State :=
  { State.resetWith 64 with
    busy := true, op := 4, fsm := .pad, cursor := 3, pixcount := 1024, full := true
    grid := (List.range 1024).map fun k => (k, transparent) }

theorem sparseGet_constant (l : List Nat) (v : Word) (k : Nat) (h : k ∈ l) : sparseGet (l.map fun i => (i, v)) k = some v := by
  induction l with
  | nil => cases h
  | cons i l ih =>
    simp only [List.map_cons, sparseGet]
    split
    · rfl
    · rename_i hne
      exact ih ((List.mem_cons.1 h).resolve_left (Ne.symm hne))

theorem paddedState_inv : Inv paddedState := by
  have hkeys : paddedState.grid.map Prod.fst = List.range 1024 := by
    simp only [paddedState, List.map_map, Function.comp_def, List.map_id']
  have hlen : (List.replicate 1024 transparent).length = 1024 := List.length_replicate
  refine ⟨by simp [paddedState], (fun h => by cases h), rfl, fun _ => ⟨rfl, rfl⟩, fun _ => ⟨by decide, by decide⟩,
    fun _ => ⟨List.replicate 1024 transparent, ⟨hlen, fun k hk => ?_⟩, rfl, ?_⟩, (fun h => by cases h), fun _ _ => rfl,
    (fun h => by cases h), ⟨List.Pairwise.nil, (fun c hc => by cases hc)⟩, ⟨?_, fun c hc => ?_⟩⟩
  · rw [hlen] at hk
    have hr : (List.replicate 1024 transparent)[k]? = some transparent := by simp only [List.getElem?_replicate, hk, if_true]
    rw [hr, gridWord]
    simp only [paddedState]
    exact sparseGet_constant (List.range 1024) transparent k (List.mem_range.2 hk)
  · change refPad (List.replicate 1024 transparent) = refPad []
    simp only [refPad, hlen, Config.gridPixels, Nat.sub_self, List.replicate_zero, List.append_nil, List.length_nil, Nat.sub_zero,
      List.nil_append]
  · rw [Grid.wf, hkeys]
    exact List.pairwise_lt_range
  · have : c.1 ∈ paddedState.grid.map Prod.fst := List.mem_map_of_mem hc
    rw [hkeys] at this
    exact List.mem_range.1 this

/-- R131's offsets at the ends of their ranges, and R132's last sentence at the last step of a decode. -/
theorem witness_ResetInputClears :
    ((0x000#13).toNat % 4 = 0 ∧ (0xFFC#13).toNat % 4 = 0 ∧ (0xFFC#13).toNat < 0x1000 ∧ (0x1000#13).toNat % 4 = 0 ∧
      0x1000 ≤ (0x1000#13).toNat ∧ (0x1FFC#13).toNat % 4 = 0 ∧ 0x1000 ≤ (0x1FFC#13).toNat) ∧
    ∃ v, Inv paddedState ∧ paddedState.fsm.decoding = true ∧ engineStep paddedState = .next v ∧ v.fsm = .idle :=
  ⟨by decide, _, paddedState_inv, rfl, rfl, rfl⟩

theorem witness_DecodeFinishHoldsReference : ∃ t, Inv paddedState ∧ paddedState.fsm.decoding = true ∧
    engineStep paddedState = .next t ∧ t.fsm = .idle := ⟨_, paddedState_inv, rfl, rfl, rfl⟩

/-- The block of sprite 4 of archive A, decoded by DECODE with nothing loaded. -/
def byDecode : State := inExec 4 { placedA with blkStart := 43, blkLen := 12 }

/-- The same block, decoded by EXTRACT_DECODE in a state that differs elsewhere. -/
def byExtract : State := inExec 5 { loadedA with spriteId := 4, hostViol := true, grid := [(0, 7)] }

/-- One decode started by each command. -/
theorem witness_DecodeDependsOnBlockOnly : ∃ s' t' : State,
    byDecode.fsm = .exec ∧ byExtract.fsm = .exec ∧ byDecode.events = [] ∧ byExtract.events = [] ∧
      engineStep byDecode = .next s' ∧ engineStep byExtract = .next t' ∧ s'.fsm = .fetchT ∧ t'.fsm = .fetchT ∧
      RangeOk s' ∧ RangeOk t' ∧ s'.blkLen = t'.blkLen ∧ (∀ k, k < s'.blkLen.toNat → blockByte s' k = blockByte t' k) ∧
      s'.loaded ≠ t'.loaded ∧ s'.grid ≠ t'.grid :=
  ⟨startDecode byDecode, startDecode (setRange 43 12 byExtract), rfl, rfl, rfl, rfl, rfl, rfl, rfl, rfl, by decide, by decide, rfl,
    fun _ _ => rfl, by decide, by decide⟩

end Sys2Proof.Tests
end

/-! The statements of 10_state.md: what a host read of each register returns, what every step does to the memories' form, the
frame of the engine's step, and the invariant of R39. -/

namespace Sys2Proof.Machine

section WindowReads

variable {s : State} {off : BitVec 13}

/-- An aligned word read answers the register's value and changes nothing but the response (R70, R48). -/
theorem hostRead_word {w : Word} (ha : off.toNat % 4 = 0) (hr : readReg (windowReg off) s = some w) :
    hostRead off .word s = .next { s with response := some (.word w) } := by
  rw [hostRead, if_pos ⟨rfl, ha⟩, hr]
  rfl

/-- The offsets from the last register to the GRID window are reserved (R17). -/
theorem windowReg_reserved (hlo : 0x038 ≤ off.toNat) (hhi : off.toNat < 0x1000) : windowReg off = .reserved := by
  unfold windowReg
  split
  case h_15 => exact if_pos (by omega)
  all_goals omega

/-- Offset 0x1000 + 4k is GRID word k (R17). -/
theorem windowReg_grid {k : Nat} (hoff : off.toNat = 0x1000 + 4 * k) : windowReg off = .grid k := by
  have hk : off.toNat / 4 = 1024 + k := by omega
  unfold windowReg
  split
  case h_15 => rw [hk, if_neg (by omega), Nat.add_sub_cancel_left]
  all_goals omega

end WindowReads

/-- Settles O14: each offset's register, and its value zero-extended. -/
theorem windowReadsRegisters : Obligations.WindowReadsRegisters := by
  intro s
  refine ⟨hostRead_word rfl rfl, hostRead_word rfl rfl, hostRead_word rfl rfl, hostRead_word rfl rfl, ?_,
    hostRead_word rfl rfl, hostRead_word rfl rfl, hostRead_word rfl rfl, hostRead_word rfl rfl, ?_, ?_, ?_⟩
  · exact hostRead_word rfl (congrArg some (BitVec.ofNat_toNat 32 s.spriteCount).symm)
  · exact hostRead_word rfl (congrArg some (BitVec.ofNat_toNat 32 s.run).symm)
  · exact hostRead_word rfl (congrArg some (BitVec.ofNat_toNat 32 s.pixcount).symm)
  · intro off ha hlo hhi
    exact hostRead_word ha (by rw [windowReg_reserved hlo hhi]; rfl)

/-- Settles O16: the window's layout, and the word or the fault of the read (R132). -/
theorem gridWindowReads : Obligations.GridWindowReads := by
  intro s off k _ hoff
  have ha : off.toNat % 4 = 0 := by omega
  refine ⟨fun v hv => hostRead_word ha (by rw [windowReg_grid hoff]; exact hv), fun hnone => ?_⟩
  have hr : readReg (windowReg off) s = none := by rw [windowReg_grid hoff]; exact hnone
  rw [hostRead, if_pos ⟨rfl, ha⟩, hr]

section StatusWords

/-- A one-bit field of a word given by its value. -/
theorem getLsbD_ofNat_eq {v i : Nat} {b : Bool} (hi : i < 32) (hv : v / 2 ^ i % 2 = b.toNat) :
    (BitVec.ofNat 32 v).getLsbD i = b := by
  rw [BitVec.getLsbD_ofNat, decide_eq_true hi, Bool.true_and, Nat.testBit_eq_decide_div_mod_eq, hv]
  cases b <;> rfl

/-- A field of a word given by its value: `len` bits from bit `i` up. -/
theorem toNat_extractLsb'_ofNat {v i len : Nat} (hv : v < 2 ^ 32) :
    ((BitVec.ofNat 32 v).extractLsb' i len).toNat = v / 2 ^ i % 2 ^ len := by
  rw [BitVec.extractLsb'_toNat, BitVec.toNat_ofNat, Nat.mod_eq_of_lt hv, Nat.shiftRight_eq_div_pow]

/-- A field of a word holds `x`. -/
theorem extractLsb'_ofNat_eq {v i len : Nat} {x : BitVec len} (hv : v < 2 ^ 32) (hx : v / 2 ^ i % 2 ^ len = x.toNat) :
    (BitVec.ofNat 32 v).extractLsb' i len = x :=
  BitVec.eq_of_toNat_eq ((toNat_extractLsb'_ofNat hv).trans hx)

/-- A field of a word is 0. -/
theorem extractLsb'_ofNat_eq_zero {v i len : Nat} (hv : v < 2 ^ 32) (hx : v / 2 ^ i % 2 ^ len = 0) :
    (BitVec.ofNat 32 v).extractLsb' i len = 0 :=
  extractLsb'_ofNat_eq hv (hx.trans BitVec.toNat_zero.symm)

theorem Err.code_le (e : Err) : e.code ≤ 6 := by cases e <;> decide

theorem NfReason.code_le (k : NfReason) : k.code ≤ 4 := by cases k <;> decide

theorem FsmState.code_le (f : FsmState) : f.code ≤ 6 := by cases f <;> decide

variable (s : State)

/-- STATUS holds its fields at their bits, and 0 at the reserved bits (R20). -/
theorem statusWord_fields :
    (statusWord s).getLsbD 0 = s.busy ∧ (statusWord s).getLsbD 1 = s.done ∧ (statusWord s).getLsbD 2 = s.loaded ∧
      (statusWord s).getLsbD 3 = s.hostViol ∧ ((statusWord s).extractLsb' 4 4).toNat = s.err.code ∧
      ((statusWord s).extractLsb' 8 4).toNat = s.nfReason.code ∧ (statusWord s).getLsbD 12 = s.shortTail ∧
      (statusWord s).getLsbD 13 = s.runClipped ∧ (statusWord s).extractLsb' 14 18 = 0 := by
  have hb := s.busy.toNat_le
  have hd := s.done.toNat_le
  have hl := s.loaded.toNat_le
  have hv := s.hostViol.toNat_le
  have he := s.err.code_le
  have hn := s.nfReason.code_le
  have ht := s.shortTail.toNat_le
  have hc := s.runClipped.toNat_le
  unfold statusWord
  refine ⟨getLsbD_ofNat_eq (by decide) ?_, getLsbD_ofNat_eq (by decide) ?_, getLsbD_ofNat_eq (by decide) ?_,
    getLsbD_ofNat_eq (by decide) ?_, (toNat_extractLsb'_ofNat (by omega)).trans ?_,
    (toNat_extractLsb'_ofNat (by omega)).trans ?_, getLsbD_ofNat_eq (by decide) ?_, getLsbD_ofNat_eq (by decide) ?_,
    extractLsb'_ofNat_eq_zero (by omega) ?_⟩ <;> omega

/-- ROWCOL holds its fields at their bits, and 0 at the reserved bits (R31). -/
theorem rowcolWord_fields :
    (rowcolWord s).extractLsb' 0 5 = s.col ∧ (rowcolWord s).extractLsb' 5 3 = 0 ∧ (rowcolWord s).extractLsb' 8 5 = s.row ∧
      (rowcolWord s).extractLsb' 13 3 = 0 ∧ (rowcolWord s).getLsbD 16 = s.full ∧
      (rowcolWord s).extractLsb' 17 15 = 0 := by
  have hc := s.col.isLt
  have hr := s.row.isLt
  have hf := s.full.toNat_le
  unfold rowcolWord
  refine ⟨extractLsb'_ofNat_eq (by omega) ?_, extractLsb'_ofNat_eq_zero (by omega) ?_,
    extractLsb'_ofNat_eq (by omega) ?_, extractLsb'_ofNat_eq_zero (by omega) ?_,
    getLsbD_ofNat_eq (by decide) ?_, extractLsb'_ofNat_eq_zero (by omega) ?_⟩ <;> omega

/-- FSM holds its fields at their bits, and 0 at the reserved bits (R32). -/
theorem fsmWord_fields :
    ((fsmWord s).extractLsb' 0 3).toNat = s.fsm.code ∧ (fsmWord s).getLsbD 3 = false ∧ (fsmWord s).extractLsb' 4 4 = s.op ∧
      (fsmWord s).extractLsb' 8 24 = 0 := by
  have hf := s.fsm.code_le
  have ho := s.op.isLt
  unfold fsmWord
  refine ⟨(toNat_extractLsb'_ofNat (by omega)).trans ?_, getLsbD_ofNat_eq (by decide) ?_,
    extractLsb'_ofNat_eq (by omega) ?_, extractLsb'_ofNat_eq_zero (by omega) ?_⟩
  · omega
  · rw [Bool.toNat_false]; omega
  · omega
  · omega

end StatusWords

/-- Settles O15: the codes by their definition, and the three words' fields. -/
theorem statusWordsHoldFields : Obligations.StatusWordsHoldFields := by
  refine ⟨by decide, by decide, by decide, fun s => ⟨statusWord s, rowcolWord s, fsmWord s, hostRead_word rfl rfl, ?_⟩⟩
  obtain ⟨hbusy, hdone, hloaded, hviol, herr, hreason, htail, hclipped, hreserved⟩ := statusWord_fields s
  obtain ⟨hcol, hcolGap, hrow, hrowGap, hfull, htop⟩ := rowcolWord_fields s
  exact ⟨hbusy, hdone, hloaded, hviol, herr, hreason, htail, hclipped, hreserved, hostRead_word rfl rfl, hcol, hcolGap, hrow,
    hrowGap, hfull, htop, hostRead_word rfl rfl, fsmWord_fields s⟩

section Memories

variable {s t : State}

/-- A host write of the register window touches neither memory (R70 to R74). -/
theorem writeReg_memories {r : WindowReg} {w : Word} (h : writeReg r w s = .next t) : t.amem = s.amem ∧ t.grid = s.grid := by
  rcases writeReg_next h with rfl | rfl | ⟨-, -, rfl⟩ | rfl | rfl | ⟨-, -, rfl⟩ | ⟨-, rfl | rfl | rfl⟩ <;> exact ⟨rfl, rfl⟩

/-- The engine's turn keeps the canonical forms: AMEM stays, and GRID gets at most one word. -/
theorem engineStep_wf (ha : s.amem.wf) (hg : s.grid.wf) (h : engineStep s = .next t) : t.amem.wf ∧ t.grid.wf := by
  obtain ⟨hamem, hgrid⟩ := engineStep_memories h
  refine ⟨by rwa [hamem], ?_⟩
  rcases hgrid with hgrid | ⟨v, hgrid⟩ <;> rw [hgrid]
  · exact hg
  · exact sparseSet_pairwise s.grid (gridIndex s) v hg

end Memories

/-- Settles O49: only a host AMEM write, a written pixel and reset touch a memory, and each keeps its form. -/
theorem stepKeepsCanonicalMemories : Obligations.StepKeepsCanonicalMemories := by
  intro s t ha hg hstep
  obtain ⟨es, -, ⟨es', hengine⟩ | ⟨x, rfl⟩ | ⟨r, w, hwrite⟩ | ⟨a, b, -, -, rfl⟩ | rfl⟩ := step_next hstep
  · exact engineStep_wf (s := { s with events := es' }) ha hg hengine
  · exact ⟨ha, hg⟩
  · obtain ⟨hamem, hgrid⟩ := writeReg_memories hwrite
    exact ⟨by rwa [hamem], by rwa [hgrid]⟩
  · exact ⟨amemStore_wf a.toNat b { s with events := es } ha, hg⟩
  · exact ⟨ha, .nil⟩

section EngineFrame

/-- The states of a decode are neither IDLE nor EXEC (R33). -/
theorem FsmState.ne_of_decoding {f : FsmState} (h : f.decoding = true) : f ≠ .idle ∧ f ≠ .exec := by
  constructor <;> rintro rfl <;> cases h

variable {s t : State}

/-- A decode step without a premise on the state: it stays in its command or finishes, and only EMIT_T, EMIT_C and PAD write
GRID (R99 to R102, R113). -/
theorem engineStep_decoding_frame (hd : s.fsm.decoding = true) (h : engineStep s = .next t) :
    (SameCommand s t ∨ t = finish .ok s) ∧ (t.grid ≠ s.grid → s.fsm = .emitT ∨ s.fsm = .emitC ∨ s.fsm = .pad) := by
  rcases engineStep_next h with ⟨hf, -⟩ | ⟨hf, -⟩ | ⟨hf, h⟩ | ⟨hf, h⟩ | ⟨hf, h⟩ | ⟨hf, h⟩ | ⟨hf, h⟩
  · exact absurd hf (FsmState.ne_of_decoding hd).1
  · exact absurd hf (FsmState.ne_of_decoding hd).2
  · rcases fetchTStep_next h with ⟨n, rfl⟩ | rfl <;> exact ⟨.inl rfl, fun hg => absurd rfl hg⟩
  · refine ⟨.inl ?_, fun _ => .inl hf⟩
    rcases emitTStep_next h with rfl | rfl | rfl <;> rfl
  · rcases fetchCStep_next h with ⟨n, rfl⟩ | rfl <;> exact ⟨.inl rfl, fun hg => absurd rfl hg⟩
  · refine ⟨.inl ?_, fun _ => .inr (.inl hf)⟩
    rcases emitCStep_next h with rfl | rfl | rfl | ⟨r, g, b, rfl⟩ <;> rfl
  · refine ⟨?_, fun _ => .inr (.inr hf)⟩
    rcases padStep_next h with rfl | rfl
    · exact .inl rfl
    · exact .inr rfl

end EngineFrame

/-- Settles O47: a decode step stays in its command or finishes; IDLE changes nothing; in EXEC each command changes its own
registers, and every end of a command is `finish`. -/
theorem engineFrame : Obligations.EngineFrame := by
  intro s t h
  by_cases hd : s.fsm.decoding = true
  · obtain ⟨hsame | rfl, hgrid⟩ := engineStep_decoding_frame hd h
    · rw [hsame]
      simpa [hd] using hgrid
    · simp
  · rcases engineStep_next h with ⟨-, rfl⟩ | ⟨hf, hop, hexec⟩ | ⟨hf, -⟩ | ⟨hf, -⟩ | ⟨hf, -⟩ | ⟨hf, -⟩ | ⟨hf, -⟩
    · simp
    · rcases exec_decodeOp_next hop hexec with ⟨ho, hload⟩ | ⟨ho, rfl⟩ | ⟨ho, -, rfl⟩ | ⟨ho, -, k, -, rfl⟩ |
          ⟨ho, -, a, n, -, rfl⟩ | ⟨ho, -, rfl⟩ | ⟨ho, -, rfl⟩ | ⟨ho, -, a, n, -, rfl⟩ | ⟨ho, rfl⟩
      · rcases execLoad_next hload with ⟨e, sig, -, rfl⟩ | ⟨sig, n, -, -, -, -, rfl⟩
        · simp [hf, loadFail, BitVec.toNat_eq, ho]
        · simp [hf, BitVec.toNat_eq, ho]
      -- The other commands: what each leaves is written out, and the State lemmas read its fields.
      all_goals simp [hf, BitVec.toNat_eq, ho]
    all_goals exact absurd (by rw [hf]; rfl) hd

section InvariantFrame

variable {s : State}

/-- R39 item 1, the way back from BUSY to STATE. -/
theorem Inv.fsm_eq_idle (h : Inv s) (hb : s.busy = false) : s.fsm = .idle := by
  by_contra hne
  rw [h.busyIff.2 hne] at hb
  cases hb

/-- The fields that R39 does not read may take any value, and DONE may be cleared. -/
theorem Inv.setUnread (h : Inv s) (irqEn done hostViol : Bool) (err : Err) (nfReason : NfReason) (events : List Event)
    (response : Option Response) (hdone : done = true → s.done = true) :
    Inv { s with irqEn, done, hostViol, err, nfReason, events, response } :=
  ⟨h.busyIff, fun hd => h.doneIdle (hdone hd), h.position, h.fullOrigin, h.range, h.output, h.archive, h.runZero, h.execOp,
    h.amemForm, h.gridForm⟩

/-- While no decode runs the operand registers may take any value, except that ARCHIVE_LEN stays while LOADED = 1. -/
theorem Inv.setOperands (h : Inv s) (hd : s.fsm.decoding = false) (archiveLen spriteId blkStart blkLen : Word)
    (hlen : s.loaded = true → archiveLen = s.archiveLen) : Inv { s with archiveLen, spriteId, blkStart, blkLen } where
  busyIff := h.busyIff
  doneIdle := h.doneIdle
  position := h.position
  fullOrigin := h.fullOrigin
  range hd' := absurd (hd.symm.trans hd') Bool.false_ne_true
  output hd' := absurd (hd.symm.trans hd') Bool.false_ne_true
  archive hl := by
    change archiveLen.toNat ≤ _ ∧ _ ≤ archiveLen.toNat ∧ _
    rw [hlen hl]
    exact h.archive hl
  runZero := h.runZero
  execOp := h.execOp
  amemForm := h.amemForm
  gridForm := h.gridForm

/-- UNLOAD's and a failed LOAD's clearing keeps R39 (R79, R81). -/
theorem Inv.clearArchive (h : Inv s) : Inv (clearArchive s) :=
  ⟨h.busyIff, h.doneIdle, h.position, h.fullOrigin, h.range, h.output, fun hl => absurd hl Bool.false_ne_true, h.runZero,
    h.execOp, h.amemForm, h.gridForm⟩

/-- A header that LOAD has checked meets R39 item 4 (R81). -/
theorem Inv.latchHeader (h : Inv s) {sig : Word} {n : Half} (hlen : s.archiveLen.toNat ≤ s.amemSize.toNat)
    (htable : Config.headerLen + 4 * n.toNat ≤ s.archiveLen.toNat) (hsig : le32 s 0 = some sig.toNat)
    (hcount : le16 s 4 = some n.toNat) : Inv (latchCount n (latchSignature sig s)) :=
  ⟨h.busyIff, h.doneIdle, h.position, h.fullOrigin, h.range, h.output, fun _ => ⟨hlen, htable, hsig, hcount⟩, h.runZero,
    h.execOp, h.amemForm, h.gridForm⟩

/-- A command that ends with RUN = 0 keeps R39 (R76). -/
theorem Inv.finish (h : Inv s) (hrun : s.run = 0) (e : Err) : Inv (finish e s) where
  busyIff := by simp
  doneIdle := by simp
  position := h.position
  fullOrigin := h.fullOrigin
  range hd := nomatch hd
  output hd := nomatch hd
  archive := h.archive
  runZero _ _ := hrun
  execOp hf := nomatch hf
  amemForm := h.amemForm
  gridForm := h.gridForm

/-- An accepted command is in EXEC with an OP that is not 0 (R74). -/
theorem Inv.accept (h : Inv s) (hb : s.busy = false) {op : BitVec 4} (hop : op.toNat ≠ 0) : Inv (accept op s) where
  busyIff := by simp
  doneIdle := by simp
  position := h.position
  fullOrigin := h.fullOrigin
  range hd := nomatch hd
  output hd := nomatch hd
  archive := h.archive
  runZero _ _ := h.runZero (by simp [h.fsm_eq_idle hb]) (by simp [h.fsm_eq_idle hb])
  execOp _ := hop
  amemForm := h.amemForm
  gridForm := h.gridForm

/-- The start of a decode inside the range: nothing decoded, the whole reference decode to do (R98). -/
theorem Inv.startDecode (h : Inv s) (hb : s.busy = true) (hr : RangeOk s) : Inv (startDecode s) := by
  obtain ⟨hok, hgrid, hres⟩ := startDecode_ok hr
  exact {
    busyIff := by simp [hb]
    doneIdle := h.doneIdle
    position := hok.positioned.position
    fullOrigin := hok.positioned.fullOrigin
    range := fun _ => ⟨hok.rangeOk, hok.cursorLe⟩
    output := fun _ => ⟨[], hgrid, congrArg RefRun.cur hres, congrArg RefRun.pix hres⟩
    archive := h.archive
    runZero := hok.runZero
    execOp := fun hf => nomatch hf
    amemForm := h.amemForm
    gridForm := h.gridForm }

/-- A byte stored under the host's duties meets no archive byte and no decode (R53). -/
theorem Inv.amemStore (h : Inv s) {a : Word} (b : Byte) (ha : a.toNat < s.amemSize.toNat) (hduty : AmemDuty a s) :
    Inv (amemStore a.toNat b s) := by
  obtain ⟨hb, houtside⟩ := hduty
  have hidle := h.fsm_eq_idle hb
  exact {
    busyIff := h.busyIff
    doneIdle := h.doneIdle
    position := h.position
    fullOrigin := h.fullOrigin
    range := fun hd => absurd hidle (FsmState.ne_of_decoding hd).1
    output := fun hd => absurd hidle (FsmState.ne_of_decoding hd).1
    archive := fun hl => by
      obtain ⟨hlen, htable, hsig, hcount⟩ := h.archive hl
      have hbelow : 6 ≤ a.toNat := by
        have := houtside hl
        simp only [Config.headerLen] at htable
        omega
      refine ⟨hlen, htable, ?_, ?_⟩
      · rw [le32, memRead, amemBytes_amemStore s a.toNat b 0 4 (by omega)]
        exact hsig
      · rw [le16, memRead, amemBytes_amemStore s a.toNat b 4 2 (by omega)]
        exact hcount
    runZero := h.runZero
    execOp := h.execOp
    amemForm := by
      refine ⟨amemStore_wf a.toNat b s h.amemForm.1, fun c hc => ?_⟩
      rcases mem_sparseSet s.amem a.toNat b c hc with rfl | hc
      · exact ha
      · exact h.amemForm.2 c hc
    gridForm := h.gridForm }

end InvariantFrame

/-- Reset meets R39, whatever AMEM holds and whatever is scheduled (R131). -/
theorem resetWith_inv (z : Word) {m : Memory} (es : List Event) (hm : m.wf) (hz : ∀ c ∈ m, c.1 < z.toNat) :
    Inv { State.resetWith z with amem := m, events := es } where
  busyIff := by simp [State.resetWith]
  doneIdle hd := nomatch hd
  position := rfl
  fullOrigin hf := nomatch hf
  range hd := nomatch hd
  output hd := nomatch hd
  archive hl := nomatch hl
  runZero _ _ := rfl
  execOp hf := nomatch hf
  amemForm := ⟨hm, hz⟩
  gridForm := ⟨.nil, fun c hc => nomatch hc⟩

/-- Settles O50: with nothing written and nothing scheduled. -/
theorem resetMeetsR39 : Obligations.ResetMeetsR39 := by
  intro z
  have hreset (z : Word) : Inv (State.resetWith z) := resetWith_inv z [] .nil (fun c hc => nomatch hc)
  exact ⟨hreset z, hreset Config.amemSize⟩

section EngineInvariant

variable {s t : State}

/-- A step that writes at most the word PIXCOUNT keeps GRID's form, inside its 1024 words. -/
theorem GridStep.gridForm (h : GridStep s t) (hs : s.grid.wf ∧ ∀ c ∈ s.grid, c.1 < Config.gridPixels) :
    t.grid.wf ∧ ∀ c ∈ t.grid, c.1 < Config.gridPixels := by
  obtain ⟨hwf, hlt⟩ := hs
  rcases h with ⟨hg, -⟩ | ⟨hpix, -, v, hg⟩
  · rw [hg]
    exact ⟨hwf, hlt⟩
  · rw [hg]
    refine ⟨sparseSet_pairwise _ _ _ hwf, fun c hc => ?_⟩
    rcases mem_sparseSet _ _ _ c hc with rfl | hc
    · exact hpix
    · exact hlt c hc

/-- A step that goes on with the decode keeps R39: what it does and what is left still make up the reference decode. -/
theorem Inv.decodeStep (h : Inv s) {p q : List Word} {k : Nat} (hd : s.fsm.decoding = true)
    (hcur : (resume s p).cur = (refRun (blockByte s) s.blkLen.toNat).cur)
    (hpix : (resume s p).pix = rleDecode (blockByte s) s.blkLen.toNat) (hstep : DecodeStep s p t q k) : Inv t := by
  have hsame := hstep.same
  have hamem : t.amem = s.amem := by rw [hsame]
  have hsize : t.amemSize = s.amemSize := by rw [hsame]
  have hlen : t.blkLen = s.blkLen := by rw [hsame]
  have hblock : blockByte t = blockByte s := blockByte_congr hamem (by rw [hsame])
  have hbusy : s.busy = true := h.busyIff.2 (FsmState.ne_of_decoding hd).1
  obtain ⟨hidle, hexec⟩ := FsmState.ne_of_decoding hstep.ok.decoding
  exact {
    busyIff := iff_of_true (by rw [hsame]; exact hbusy) hidle
    doneIdle := by
      rw [hsame]
      exact h.doneIdle
    position := hstep.ok.positioned.position
    fullOrigin := hstep.ok.positioned.fullOrigin
    range := fun _ => ⟨hstep.ok.rangeOk, hstep.ok.cursorLe⟩
    output := fun _ => ⟨q, hstep.holds, by rw [hstep.cur, hcur, hblock, hlen], by rw [hstep.pix, hpix, hblock, hlen]⟩
    archive := by
      rw [le32, le16, memRead_congr s t hamem hsize, memRead_congr s t hamem hsize, hsame]
      exact h.archive
    runZero := hstep.ok.runZero
    execOp := fun hf => absurd hf hexec
    amemForm := by
      rw [hamem, hsize]
      exact h.amemForm
    gridForm := hstep.gridStep.gridForm h.gridForm }

/-- The engine's step of a decode under way keeps R39 (R99 to R103, R113). -/
theorem engineStep_decoding_inv (h : Inv s) (hd : s.fsm.decoding = true) (hstep : engineStep s = .next t) : Inv t := by
  obtain ⟨p, hgrid, hcur, hpix⟩ := h.output hd
  rcases engineStep_decoding (h.decodeOk hd) hgrid with ⟨hf, -, hfin⟩ | ⟨u, q, k, hu, hds⟩
  · cases hfin.symm.trans hstep
    exact h.finish (h.runZero (by simp [hf]) (by simp [hf])) .ok
  · cases hu.symm.trans hstep
    exact h.decodeStep hd hcur hpix hds

/-- The EXEC step keeps R39, whatever the command (R75). -/
theorem exec_inv (h : Inv s) (hf : s.fsm = .exec) (hop : s.op.toNat ≠ 0) (hstep : exec (decodeOp s.op) s = .next t) :
    Inv t := by
  have hrun : s.run = 0 := h.runZero (by simp [hf]) (by simp [hf])
  have hbusy : s.busy = true := h.busyIff.2 (by simp [hf])
  have hrange (a n : Word) : Inv (setRange a n s) :=
    h.setOperands (by rw [hf]; rfl) s.archiveLen s.spriteId a n fun _ => rfl
  rcases exec_decodeOp_next hop hstep with ⟨-, hload⟩ | ⟨-, rfl⟩ | ⟨-, -, rfl⟩ | ⟨-, -, k, -, rfl⟩ |
    ⟨-, -, a, n, -, rfl⟩ | ⟨-, hr, rfl⟩ | ⟨-, -, rfl⟩ | ⟨-, hl, a, n, hres, rfl⟩ | ⟨-, rfl⟩
  · rcases execLoad_next hload with ⟨e, sig, -, rfl⟩ | ⟨sig, n, hsig, hcount, hlen, htable, rfl⟩
    · exact h.clearArchive.finish hrun e
    · exact (h.latchHeader hlen htable hsig hcount).finish hrun .ok
  · exact h.clearArchive.finish hrun .ok
  · exact h.finish hrun .notLoaded
  · exact (h.setUnread s.irqEn s.done s.hostViol s.err k s.events s.response id).finish hrun .notFound
  · exact (hrange a n).finish hrun .ok
  · exact h.startDecode hbusy hr
  · exact h.finish hrun .badRange
  · exact (hrange a n).startDecode hbusy ⟨(h.archive hl).1, (resolve_found hres).2⟩
  · exact h.finish hrun .badCmd

/-- The engine's turn keeps R39 in every control state (R33). -/
theorem engineStep_inv (h : Inv s) (hstep : engineStep s = .next t) : Inv t := by
  by_cases hd : s.fsm.decoding = true
  · exact engineStep_decoding_inv h hd hstep
  · rcases engineStep_next hstep with ⟨-, rfl⟩ | ⟨hf, hop, hexec⟩ | ⟨hf, -⟩ | ⟨hf, -⟩ | ⟨hf, -⟩ | ⟨hf, -⟩ | ⟨hf, -⟩
    · exact h
    · exact exec_inv h hf hop hexec
    all_goals exact absurd (by rw [hf]; rfl) hd

/-- A host write of the register window keeps R39 (R70 to R74). -/
theorem writeReg_inv {r : WindowReg} {w : Word} (h : Inv s) (hstep : writeReg r w s = .next t) : Inv t := by
  have hoperand (hb : s.busy = false) : s.fsm.decoding = false := by rw [h.fsm_eq_idle hb]; rfl
  rcases writeReg_next hstep with rfl | rfl | ⟨hb, hop, rfl⟩ | rfl | rfl | ⟨hb, hl, rfl⟩ | ⟨hb, rfl | rfl | rfl⟩
  · exact h
  · exact h.setUnread s.irqEn s.done true s.err s.nfReason s.events s.response id
  · exact h.accept hb hop
  · exact h.setUnread _ s.done s.hostViol s.err s.nfReason s.events s.response id
  · exact h.setUnread s.irqEn _ _ s.err s.nfReason s.events s.response fun hd => (Bool.and_eq_true_iff.1 hd).1
  · exact h.setOperands (hoperand hb) w s.spriteId s.blkStart s.blkLen fun hl' => by rw [hl] at hl'; cases hl'
  · exact h.setOperands (hoperand hb) s.archiveLen w s.blkStart s.blkLen fun _ => rfl
  · exact h.setOperands (hoperand hb) s.archiveLen s.spriteId w s.blkLen fun _ => rfl
  · exact h.setOperands (hoperand hb) s.archiveLen s.spriteId s.blkStart w fun _ => rfl

end EngineInvariant

/-- Settles O51: the engine's turn, a read, a window write, an AMEM write and a reset each keep the invariant. -/
theorem stepKeepsR39 : Obligations.StepKeepsR39 := by
  intro s t h hstep
  have hpop (es : List Event) (x : Option Response) : Inv { s with events := es, response := x } :=
    h.setUnread s.irqEn s.done s.hostViol s.err s.nfReason es x id
  obtain ⟨es, -, ⟨es', hengine⟩ | ⟨x, rfl⟩ | ⟨r, w, hwrite⟩ | ⟨a, b, ha, hduty, rfl⟩ | rfl⟩ := step_next hstep
  · exact engineStep_inv (hpop es' s.response) hengine
  · exact hpop es x
  · exact writeReg_inv (hpop es s.response) hwrite
  · exact (hpop es s.response).amemStore b ha hduty
  · exact resetWith_inv s.amemSize es h.amemForm.1 h.amemForm.2

/-- R39 holds along every run from a state that meets it. -/
theorem Reachable.inv {s t : State} (h : Inv s) (hr : Reachable s t) : Inv t := by
  induction hr with
  | start => exact h
  | next _ hstep ih => exact stepKeepsR39 _ _ ih hstep

/-- Settles O53: the pixels held begin the list that the reference decode ends with. -/
theorem gridHoldsDecodedPrefix : Obligations.GridHoldsDecodedPrefix := by
  intro s h hd
  obtain ⟨p, ⟨hlen, hword⟩, -, hpix⟩ := h.output hd
  refine ⟨(h.decodeOk hd).positioned.le, fun k hk => ?_⟩
  rw [← hlen] at hk
  refine ⟨p[k], ?_, ?_⟩
  · rw [hword k hk, List.getElem?_eq_getElem hk]
  · rw [← hpix]
    exact List.prefix_iff_getElem?.1 (resume_prefix s p) k hk

/-- FULL stands at the origin with the whole budget written (R31, R39 item 2). -/
theorem Positioned.pixcount_of_full {s : State} (h : Positioned s) (hf : s.full = true) : s.pixcount = 1024 := by
  obtain ⟨hrow, hcol⟩ := h.fullOrigin hf
  apply BitVec.eq_of_toNat_eq
  rw [h.position, hf, hrow, hcol]
  rfl

/-- Settles O52: the invariant along every run from reset, and the reference decode's pixels from `gridHoldsDecodedPrefix`. -/
theorem reachableStatesMeetR39 : Obligations.ReachableStatesMeetR39 := by
  intro z m es s hm hz hreach
  have h : Inv s := Reachable.inv (resetWith_inv z es hm hz) hreach
  refine ⟨⟨h.busyIff, h.doneIdle⟩, ⟨h.position, fun hf => ?_⟩, fun hd => ?_, h.archive, h.runZero, ?_⟩
  · obtain ⟨hrow, hcol⟩ := h.fullOrigin hf
    exact ⟨hrow, hcol, Positioned.pixcount_of_full ⟨h.position, h.fullOrigin⟩ hf⟩
  · obtain ⟨⟨hlen, hblock⟩, hcursor⟩ := h.range hd
    exact ⟨hblock, hlen, hcursor, (gridHoldsDecodedPrefix s h hd).2⟩
  · exact Nat.lt_succ_of_le s.fsm.code_le

end Sys2Proof.Machine

/-! The statements of 20_memory.md: the value of a multi-byte read, what the engine and the host do to AMEM, the
order of events, and reads without side effects. -/

namespace Sys2Proof.Machine

section MemoryReads

/-- Little-endian bytes are the digits of their value in base 256 (R42). -/
theorem leNat_map_range (f : Nat → Byte) (n : Nat) :
    leNat ((List.range n).map f) = ∑ i ∈ Finset.range n, (f i).toNat * 256 ^ i := by
  induction n generalizing f with
  | zero => rfl
  | succ n ih =>
    calc leNat ((List.range (n + 1)).map f)
        = (f 0).toNat + 256 * leNat ((List.range n).map (f ∘ Nat.succ)) := by
          rw [List.range_succ_eq_map, List.map_cons, List.map_map, leNat]
      _ = (f 0).toNat * 256 ^ 0 + ∑ i ∈ Finset.range n, (f (i + 1)).toNat * 256 ^ (i + 1) := by
          rw [ih, Finset.mul_sum, pow_zero, mul_one]
          congr 1
          refine Finset.sum_congr rfl fun i _ => ?_
          rw [Function.comp_apply, pow_succ]
          ring
      _ = ∑ i ∈ Finset.range (n + 1), (f i).toNat * 256 ^ i := by
          rw [Finset.sum_range_succ', add_comm]

/-- A byte of AMEM after the host's write of one byte inside AMEM (R34). -/
theorem amemByte_amemStore {s : State} {a : Nat} (ha : a < s.amemSize.toNat) (b : Byte) (x : Nat) :
    amemByte (amemStore a b s) x = if x = a then some b else amemByte s x := by
  by_cases hx : x = a
  · subst hx
    rw [if_pos rfl, amemByte_of_lt (amemStore x b s) x ha, amemValue, amemStore_amem, sparseGet_sparseSet_self, Option.getD_some]
  · rw [if_neg hx, amemByte, amemByte, amemStore_amemSize, amemValue, amemValue, amemStore_amem,
      sparseGet_sparseSet_ne s.amem a x b hx]

end MemoryReads

/-- Settles O43: the bytes are read one by one, and their little-endian value is the sum. -/
theorem memReadIsLittleEndian : Obligations.MemReadIsLittleEndian := by
  intro s a n h
  rw [memRead_of_le s a n h, leNat_map_range]

section HostAmem

variable {s t : State} {a : Word}

/-- A host write inside AMEM in breach of H-1 or H-2 is no move (R53, R135). -/
theorem hostAmemWrite_of_breach (ha : a.toNat < s.amemSize.toNat) (hbreach : ¬AmemDuty a s) (b : Byte) :
    hostAmemWrite a b s = .refused .amemDuty := by
  rw [hostAmemWrite, if_pos ha, if_neg hbreach]

/-- A host write inside AMEM that keeps H-1 and H-2 stores its byte (R34). -/
theorem hostAmemWrite_of_duty (ha : a.toNat < s.amemSize.toNat) (hduty : AmemDuty a s) (b : Byte) :
    hostAmemWrite a b s = .next (amemStore a.toNat b s) := by
  rw [hostAmemWrite, if_pos ha, if_pos hduty]

/-- A host read of AMEM: everything it can do (R40). -/
theorem hostAmemRead_next (h : hostAmemRead a s = .next t) : ∃ b, t = respond (.byte b) s := by
  unfold hostAmemRead at h
  split at h
  · cases h; exact ⟨_, rfl⟩
  · cases h

/-- A host read of the window: everything it can do (R70). -/
theorem hostRead_next {off : BitVec 13} {size : AccessSize} (h : hostRead off size s = .next t) :
    ∃ w, t = respond (.word w) s := by
  unfold hostRead at h
  split at h
  · split at h
    · cases h; exact ⟨_, rfl⟩
    · cases h
  · cases h

end HostAmem

/-- Settles O44: `engineStep_memories` for the engine, and the two duties and their negations for the host. -/
theorem amemWritesKeepDuties : Obligations.AmemWritesKeepDuties := by
  refine ⟨fun s t h => (engineStep_memories h).1, fun s a b ha => ⟨fun hb => ?_, fun hl hin => ?_, fun hb hout => ?_⟩⟩
  · exact hostAmemWrite_of_breach ha (fun ⟨hidle, _⟩ => by simp [hb] at hidle) b
  · exact hostAmemWrite_of_breach ha (fun ⟨_, houtside⟩ => absurd hin (Nat.not_lt.2 (houtside hl))) b
  · have hduty : AmemDuty a s := ⟨hb, fun hl => hout.resolve_left (by simp [hl])⟩
    exact ⟨_, hostAmemWrite_of_duty ha hduty b, amemByte_amemStore ha b, rfl⟩

/-- Settles O54: a decode under way goes on or finishes, EXEC answers for every command, and IDLE stays. -/
theorem engineStepNeverStops : Obligations.EngineStepNeverStops := by
  intro s h
  by_cases hd : s.fsm.decoding = true
  · obtain ⟨p, hgrid, -, -⟩ := h.output hd
    rcases engineStep_decoding (h.decodeOk hd) hgrid with ⟨-, -, hfin⟩ | ⟨t, -, -, hnext, -⟩
    · exact ⟨_, hfin⟩
    · exact ⟨t, hnext⟩
  · cases hf : s.fsm with
    | idle => exact ⟨s, by rw [engineStep, hf]⟩
    | exec =>
      rw [engineStep_exec hf (h.execOp hf)]
      exact exec_decodeOp_total fun hl => ⟨(h.archive hl).1, (h.archive hl).2.1⟩
    | fetchT | emitT | fetchC | emitC | pad => exact absurd (by rw [hf]; rfl) hd

section EventOrder

variable {s : State}

/-- With nothing scheduled the step is the engine's turn (R137). -/
theorem step_of_events_nil (h : s.events = []) : step s = engineStep s := by
  rw [step, h]

/-- With an event scheduled the step is that event, the later ones left (R51). -/
theorem step_events_cons (s : State) (e : Event) (es : List Event) :
    step { s with events := e :: es } = runEvent e { s with events := es } := rfl

/-- While BUSY = 1 a WAIT gives the engine its turn and stays scheduled (R69). -/
theorem hostWait_busy (h : s.busy = true) : hostWait s = engineStep (reschedule .wait s) := if_pos h

/-- While BUSY = 0 a WAIT is one read of STATUS (R69). -/
theorem hostWait_not_busy (h : s.busy = false) : hostWait s = .next (respond (.word (statusWord s)) s) := by
  rw [hostWait, h, if_neg Bool.false_ne_true]

end EventOrder

/-- Settles O7: `step_events_cons` for every kind of event; a WAIT is split on BUSY. -/
theorem stepPerformsNextEvent : Obligations.StepPerformsNextEvent := by
  refine ⟨fun _ => step_of_events_nil, fun s => step_events_cons s .engine, fun s => step_events_cons s .reset,
    fun s off size => step_events_cons s (.read off size), fun s off size w => step_events_cons s (.write off size w),
    fun s a => step_events_cons s (.amemRead a), fun s a b => step_events_cons s (.amemWrite a b),
    fun s es hb => ?_, fun s es hb => ⟨statusWord s, hostRead_word rfl rfl, ?_⟩⟩
  · exact (step_events_cons s .wait es).trans (hostWait_busy hb)
  · exact (step_events_cons s .wait es).trans (hostWait_not_busy hb)

/-- Settles O17: an answered read is `respond`. -/
theorem readsHaveNoSideEffect : Obligations.ReadsHaveNoSideEffect := by
  rintro s t off size a (hwindow | hamem)
  · obtain ⟨w, rfl⟩ := hostRead_next hwindow
    rfl
  · obtain ⟨b, rfl⟩ := hostAmemRead_next hamem
    rfl

end Sys2Proof.Machine

/-! The statements of 30_encoding.md: the decoder and the encoder invert each other, a step runs what it decodes, and the header,
table and block-header tokens make up the commands that read them. -/

namespace Sys2Proof.Machine

/-- Settles O3: each constructor's round trip. -/
theorem decodeInvertsEncode : Obligations.DecodeInvertsEncode := by
  intro i
  cases i with
  | nop => exact Laws.RoundTrip.nop
  | load => exact Laws.RoundTrip.load
  | unload => exact Laws.RoundTrip.unload
  | extract => exact Laws.RoundTrip.extract
  | decode => exact Laws.RoundTrip.decode
  | extractDecode => exact Laws.RoundTrip.extractDecode
  | reserved67 op => exact Laws.RoundTrip.reserved67 op
  | reserved8F op => exact Laws.RoundTrip.reserved8F op
  | hdrSig sig => exact Laws.RoundTrip.hdrSig sig
  | hdrCount n => exact Laws.RoundTrip.hdrCount n
  | offsetEntry role off => exact Laws.RoundTrip.offsetEntry role off
  | key k0 k1 k2 => exact Laws.RoundTrip.key k0 k1 k2
  | dsize d => exact Laws.RoundTrip.dsize d
  | trun t => exact Laws.RoundTrip.trun t
  | crun c => exact Laws.RoundTrip.crun c
  | rgb r g b => exact Laws.RoundTrip.rgb r g b

section Decoding

variable {slot : Slot} {bs : List Byte}

/-- Too few bytes are no instruction (R66). -/
theorem decode_of_length_lt (h : bs.length < slot.length) : decode slot bs = .error (.truncated slot) := by
  unfold decode
  split
  case h_10 => rfl
  all_goals exact absurd h (by simp [Slot.length])

/-- An operand as wide as its bytes holds exactly those bytes (R63). -/
theorem leBytes_ofNat_leNat {n w : Nat} (hw : 256 ^ n = 2 ^ w) (hbs : bs.length = n) :
    leBytes n (BitVec.ofNat w (leNat bs)).toNat = bs := by
  subst hbs
  rw [BitVec.toNat_ofNat, ← hw, Nat.mod_eq_of_lt (leNat_lt bs), leBytes_leNat]

/-- Every byte sequence of a token's length is the encoding of a token of that slot (R66). -/
theorem exists_encode_eq (hslot : slot ≠ .command) (hbs : bs.length = slot.length) :
    ∃ i : Instr, WellFormed i ∧ i.slot = slot ∧ encode i = bs := by
  cases slot with
  | command => exact absurd rfl hslot
  | hdrSig => exact ⟨.hdrSig (BitVec.ofNat 32 (leNat bs)), rfl, rfl, leBytes_ofNat_leNat rfl hbs⟩
  | hdrCount => exact ⟨.hdrCount (BitVec.ofNat 16 (leNat bs)), rfl, rfl, leBytes_ofNat_leNat rfl hbs⟩
  | offsetEntry role => exact ⟨.offsetEntry role (BitVec.ofNat 32 (leNat bs)), rfl, rfl, leBytes_ofNat_leNat rfl hbs⟩
  | dsize => exact ⟨.dsize (BitVec.ofNat 16 (leNat bs)), rfl, rfl, leBytes_ofNat_leNat rfl hbs⟩
  | trun => exact ⟨.trun (BitVec.ofNat 16 (leNat bs)), rfl, rfl, leBytes_ofNat_leNat rfl hbs⟩
  | crun => exact ⟨.crun (BitVec.ofNat 16 (leNat bs)), rfl, rfl, leBytes_ofNat_leNat rfl hbs⟩
  | key =>
    obtain ⟨k0, k1, k2, rfl⟩ := List.length_eq_three.1 hbs
    exact ⟨.key k0 k1 k2, rfl, rfl, rfl⟩
  | rgb =>
    obtain ⟨r, g, b, rfl⟩ := List.length_eq_three.1 hbs
    exact ⟨.rgb r g b, rfl, rfl, rfl⟩

/-- Four bytes in the command slot decode by the low four bits of their value (R64). -/
theorem decode_command_append (hbs : bs.length = 4) (rest : List Byte) :
    decode .command (bs ++ rest) = .ok (decodeOp (BitVec.ofNat 4 (leNat bs)), rest) := by
  rw [← decode_command_leBytes, ← hbs, leBytes_leNat]

/-- A command is encoded as its opcode, the ignored bits 0 (R64). -/
theorem leNat_encode_decodeOp (op : BitVec 4) : leNat (encode (decodeOp op)) = op.toNat := by
  revert op; decide

/-- The opcode map (R65). -/
theorem decodeOp_rows (op : BitVec 4) :
    (op.toNat = 0 → decodeOp op = .nop) ∧ (op.toNat = 1 → decodeOp op = .load) ∧ (op.toNat = 2 → decodeOp op = .unload) ∧
    (op.toNat = 3 → decodeOp op = .extract) ∧ (op.toNat = 4 → decodeOp op = .decode) ∧
    (op.toNat = 5 → decodeOp op = .extractDecode) ∧ (op.toNat = 6 ∨ op.toNat = 7 → decodeOp op = .reserved67 op) ∧
    (8 ≤ op.toNat → decodeOp op = .reserved8F op) := by
  revert op; decide

end Decoding

/-- Settles O4: the bytes read are some instruction's encoding, which decodes to it by O3; a command's are its opcode's but for the
ignored bits. -/
theorem encodeInvertsDecode : Obligations.EncodeInvertsDecode := by
  refine fun slot bs => ⟨decode_of_length_lt, fun hlen => ?_⟩
  have hsplit : bs.take slot.length ++ bs.drop slot.length = bs := List.take_append_drop _ _
  have htake : (bs.take slot.length).length = slot.length := List.length_take_of_le hlen
  by_cases hslot : slot = .command
  · subst hslot
    refine ⟨decodeOp (BitVec.ofNat 4 (leNat (bs.take Slot.command.length))), ?_, decodeOp_wellFormed _, decodeOp_slot _,
      absurd rfl, fun _ => ?_⟩
    · rw [← decode_command_append htake, hsplit]
    · rw [leNat_encode_decodeOp, BitVec.toNat_ofNat]
  · obtain ⟨i, hwf, rfl, henc⟩ := exists_encode_eq hslot htake
    refine ⟨i, ?_, hwf, rfl, fun _ => henc, fun hcmd => absurd hcmd hslot⟩
    rw [← decodeInvertsEncode i hwf, henc, hsplit]

/-- Settles O1: the decoder evaluated on each sequence. -/
theorem specWordsDecode : Obligations.SpecWordsDecode :=
  ⟨rfl, rfl, rfl, rfl, rfl, rfl, rfl, rfl, rfl, rfl, rfl, rfl, rfl⟩

/-- Settles O2: the word's bytes decode by its low four bits, whose rows are `decodeOp_rows`. -/
theorem opcodeMapSelectsCommand : Obligations.OpcodeMapSelectsCommand := by
  intro w rest
  have hop : (BitVec.ofNat 4 w.toNat).toNat = w.toNat % 16 := BitVec.toNat_ofNat _ _
  refine ⟨_, decode_command_leBytes w.toNat rest, ?_⟩
  rw [← hop]
  exact decodeOp_rows _

section HeaderTokens

variable {s : State} {bs : List Byte}

/-- As many bytes are read as were asked for (R46). -/
theorem amemBytes_length {a n : Nat} (h : amemBytes s a n = some bs) : bs.length = n := by
  induction n generalizing a bs with
  | zero => cases h; rfl
  | succ n ih =>
    simp only [amemBytes, Option.bind_eq_some_iff, Option.map_eq_some_iff] at h
    obtain ⟨b, -, cs, hcs, rfl⟩ := h
    rw [List.length_cons, ih hcs]

/-- The signature slot's four bytes decode to their value (R56). -/
theorem decode_hdrSig (hbs : bs.length = 4) : decode .hdrSig bs = .ok (.hdrSig (BitVec.ofNat 32 (leNat bs)), []) := by
  have h := Laws.RoundTrip.hdrSig (BitVec.ofNat 32 (leNat bs)) rfl []
  rwa [encode, leBytes_ofNat_leNat rfl hbs, List.append_nil] at h

/-- The count slot's two bytes decode to their value (R56). -/
theorem decode_hdrCount (hbs : bs.length = 2) : decode .hdrCount bs = .ok (.hdrCount (BitVec.ofNat 16 (leNat bs)), []) := by
  have h := Laws.RoundTrip.hdrCount (BitVec.ofNat 16 (leNat bs)) rfl []
  rwa [encode, leBytes_ofNat_leNat rfl hbs, List.append_nil] at h

/-- A table that fits the archive is loaded (R81). -/
theorem loadCount_of_le {n : Half} (h : 6 + 4 * n.toNat ≤ s.archiveLen.toNat) : loadCount n s = finish .ok (latchCount n s) :=
  if_neg (Nat.not_lt.2 h)

/-- A table that does not fit the archive is a FORMAT error (R81). -/
theorem loadCount_of_lt {n : Half} (h : s.archiveLen.toNat < 6 + 4 * n.toNat) : loadCount n s = loadFail .format s :=
  if_pos h

/-- LOAD past its length checks: the signature at byte 0 and the count at byte 4 (R81). -/
theorem execLoad_of_header {sig n : Nat} (hmin : 6 ≤ s.archiveLen.toNat) (hmax : s.archiveLen.toNat ≤ s.amemSize.toNat)
    (hsig : le32 s 0 = some sig) (hn : le16 s 4 = some n) :
    execLoad s = .next (loadCount (BitVec.ofNat 16 n) (latchSignature (BitVec.ofNat 32 sig) s)) := by
  have hheader : ¬s.archiveLen.toNat < Config.headerLen := Nat.not_lt.2 hmin
  rw [execLoad, if_neg (Nat.not_lt.2 hmax), if_neg hheader, hsig, hn]

end HeaderTokens

/-- Settles O23: the two header tokens decode to the values that LOAD reads. -/
theorem headerTokensMakeUpLoad : Obligations.HeaderTokensMakeUpLoad := by
  refine ⟨fun s sig => rfl, fun s n h => congrArg _ (loadCount_of_le h), fun s n h => congrArg _ (loadCount_of_lt h), ?_⟩
  intro s t bs cs rest rest' i j hmin hmax hbs hi hcs hj hit
  rw [decode_hdrSig (amemBytes_length hbs)] at hi
  rw [decode_hdrCount (amemBytes_length hcs)] at hj
  cases hi
  cases hj
  cases hit
  have hsig : le32 s 0 = some (leNat bs) := congrArg _ hbs
  have hn : le16 s 4 = some (leNat cs) := congrArg _ hcs
  exact execLoad_of_header hmin hmax hsig hn

section OffsetEntries

variable {s : State}

/-- `settle` uses its continuation only on the state that the new range leaves (R88, R97). -/
theorem settle_congr {f g : State → State} (h : ∀ a n, f (setRange a n s) = g (setRange a n s)) (res : Option Resolved) :
    settle f res s = settle g res s := by
  match res with
  | none => rfl
  | some (.notFound k) => rfl
  | some (.found a n) => exact congrArg _ (h a n)

/-- The command under way is what settles its own `resolve`: EXTRACT for OP = 3, EXTRACT_DECODE for OP = 5 (R88, R97). -/
theorem settle_resolve_eq_exec (hl : s.loaded = true) :
    (s.op = 3 → settle onFound (resolve s) s = exec .extract s) ∧
      (s.op = 5 → settle onFound (resolve s) s = exec .extractDecode s) := by
  constructor <;> intro hop
  · have hfound : ∀ a n, onFound (setRange a n s) = finish .ok (setRange a n s) := fun a n => by
      rw [onFound, setRange_op, hop]; rfl
    exact (settle_congr hfound _).trans (if_pos hl).symm
  · have hfound : ∀ a n, onFound (setRange a n s) = startDecode (setRange a n s) := fun a n => by
      rw [onFound, setRange_op, hop]; rfl
    exact (settle_congr hfound _).trans (if_pos hl).symm

/-- With an id of the table, the start entry decides `resolve` (R87). -/
theorem resolve_eq_resolveFrom {start : Nat} (hlo : 1 ≤ s.spriteId.toNat) (hhi : s.spriteId.toNat ≤ s.spriteCount.toNat)
    (hstart : offEntry s s.spriteId.toNat = some start) : resolve s = resolveFrom s start := by
  rw [resolve, if_neg (by omega), hstart, Option.bind_some]

/-- For a sprite that is not the last, the next entry decides the end (R87, R90). -/
theorem resolve_eq_resolveTo {stop : Nat} (hlo : 1 ≤ s.spriteId.toNat) (hlt : s.spriteId.toNat < s.spriteCount.toNat)
    (hstop : offEntry s (s.spriteId.toNat + 1) = some stop) : resolve s = resolveTo s stop := by
  rw [resolve, if_neg (by omega), resolveTo]
  cases offEntry s s.spriteId.toNat with
  | none => rfl
  | some start =>
    rw [Option.bind_some, resolveFrom, endEntry, if_pos hlt, hstop, Option.map_some, Option.map_some]
    split <;> rfl

/-- The start entry settles `resolve` from its offset on (R87). -/
theorem exec_offsetEntry_start (off : Word) :
    exec (.offsetEntry .start off) s = settle onFound (resolveFrom s off.toNat) s := rfl

/-- The end entry settles `resolve` with that end (R87, R90). -/
theorem exec_offsetEntry_stop (off : Word) :
    exec (.offsetEntry .stop off) s = settle onFound (resolveTo s off.toNat) s := rfl

section TableFits

variable (ha : s.archiveLen.toNat ≤ s.amemSize.toNat) (ht : Config.headerLen + 4 * s.spriteCount.toNat ≤ s.archiveLen.toNat)
include ha ht

/-- The end of a sprite is read inside a table that fits the archive (R87, R41). -/
theorem endEntry_total : ∃ stop, endEntry s = some stop := by
  unfold endEntry
  split
  · exact offEntry_total ha ht _ ‹_›
  · exact ⟨_, rfl⟩

/-- From any start on, `resolve` answers when the table fits the archive (R87, R41). -/
theorem resolveFrom_total (start : Nat) : ∃ r, resolveFrom s start = some r := by
  obtain ⟨stop, hstop⟩ := endEntry_total ha ht
  unfold resolveFrom
  split
  · exact ⟨_, rfl⟩
  · rw [hstop]
    exact ⟨_, rfl⟩

/-- To any end, `resolve` answers when the sprite's own entry is in a table that fits the archive (R87, R41). -/
theorem resolveTo_total (hhi : s.spriteId.toNat ≤ s.spriteCount.toNat) (stop : Nat) : ∃ r, resolveTo s stop = some r := by
  obtain ⟨start, hstart⟩ := offEntry_total ha ht _ hhi
  rw [resolveTo, hstart]
  exact ⟨_, rfl⟩

/-- Inside a table that fits the archive, an entry answers in either role (R41, R86). -/
theorem exec_offsetEntry_total (hhi : s.spriteId.toNat ≤ s.spriteCount.toNat) (role : EntryRole) (off : Word) :
    ∃ t, exec (.offsetEntry role off) s = .next t := by
  cases role with
  | start =>
    obtain ⟨r, hr⟩ := resolveFrom_total ha ht off.toNat
    rw [exec_offsetEntry_start, hr]
    exact settle_total onFound r s
  | stop =>
    obtain ⟨r, hr⟩ := resolveTo_total ha ht hhi off.toNat
    rw [exec_offsetEntry_stop, hr]
    exact settle_total onFound r s

end TableFits

end OffsetEntries

/-- Settles O29: an entry of the table, in either role, leads to what `resolve` gives, and the command under way settles that. -/
theorem offsetEntryRoles : Obligations.OffsetEntryRoles := by
  intro s hinv hl hlo hhi
  obtain ⟨ha, ht, -, -⟩ := hinv.archive hl
  refine ⟨fun off hoff => ?_, fun off hlt hoff => ?_, exec_offsetEntry_total ha ht hhi, rfl⟩
  · rw [exec_offsetEntry_start, ← resolve_eq_resolveFrom hlo hhi hoff]
    exact settle_resolve_eq_exec hl
  · rw [exec_offsetEntry_stop, ← resolve_eq_resolveTo hlo hlt hoff]
    exact settle_resolve_eq_exec hl

section TokenSteps

variable {s : State} {slot : Slot} {bs rest : List Byte} {i : Instr}

/-- The engine's turn reads and runs a token of the kind that the state selects (R60, R62). -/
theorem engineStep_selectedSlot (h : selectedSlot s = some slot) : engineStep s = runToken slot s := by
  unfold selectedSlot at h
  unfold engineStep
  cases hf : s.fsm with rw [hf] at h
  | idle | exec | emitT | pad => cases h
  | fetchT | fetchC =>
    obtain ⟨hread, hslot⟩ := Option.ite_none_right_eq_some.1 h
    cases hslot
    exact if_pos hread
  | emitC =>
    obtain ⟨⟨hrun, hpix, hread⟩, hslot⟩ := Option.ite_none_right_eq_some.1 h
    cases hslot
    exact (if_neg hrun).trans ((if_neg hpix).trans (if_pos hread))

/-- Reading a token runs what its bytes decode to (R60). -/
theorem runToken_of_decode (hbs : blkBytes s s.cursor.toNat slot.length = some bs) (hdec : decode slot bs = .ok (i, rest)) :
    runToken slot s = exec i s := by
  rw [runToken, fetchToken, hbs, Option.bind_some, hdec]
  rfl

/-- If under any schedule the engine's turn is an instruction, then so is the step with nothing or an engine turn scheduled
(R51, R137). -/
theorem step_eq_of_engineStep (h : ∀ es, engineStep { s with events := es } = exec i { s with events := es }) :
    (s.events = [] → step s = exec i s) ∧
      ∀ es, step { s with events := .engine :: es } = exec i { s with events := es } :=
  ⟨fun hnil => (step_of_events_nil hnil).trans (h s.events), fun es => (step_events_cons s .engine es).trans (h es)⟩

end TokenSteps

/-- Settles O6: the schedule plays no part in the selection, in the bytes read and in FSM.OP. -/
theorem stepRunsDecodedInstruction : Obligations.StepRunsDecodedInstruction := by
  refine ⟨fun s slot bs rest i hslot hbs hdec => step_eq_of_engineStep fun es => ?_,
    fun s hf hop => step_eq_of_engineStep fun es => engineStep_exec hf hop⟩
  have hbytes : blkBytes { s with events := es } s.cursor.toNat slot.length = some bs :=
    (amemBytes_congr s { s with events := es } rfl rfl _ _).trans hbs
  exact (engineStep_selectedSlot (s := { s with events := es }) hslot).trans (runToken_of_decode hbytes hdec)

/-- Settles O32: both skips are their definition, and the cursor of `start_decode` is split on BLK_LEN. -/
theorem blockHeaderTokensAreSkipped : Obligations.BlockHeaderTokensAreSkipped := by
  refine fun s k0 k1 k2 d => ⟨rfl, rfl, fun t u v hr ht hu hv => ?_⟩
  cases hu
  cases hv
  have hstart : exec .decode s = .next (startDecode s) := (execDecode_eq s).trans (if_pos hr)
  rw [hstart] at ht
  cases ht
  exact ⟨fun h => if_pos h, fun h => if_neg (Nat.not_le.2 h)⟩

end Sys2Proof.Machine

/-! The statements of 40_host_interface.md: what each host write of the register window does, the command placed for the next
step, NOP, UNLOAD, the reserved opcodes and IDLE, and how many steps an accepted command takes to its finish. -/

namespace Sys2Proof.Machine

section CommandSteps

variable {s t u : State}

/-- Each token the reference decode reads takes two bytes of the block (R76, R93). -/
theorem refRun_tokens_le (b : Nat → Byte) (n : Nat) : (refRun b n).tokens ≤ n / 2 := by
  have h := refLoop_tokens_le b n n (refStart n)
  change 2 * (refRun b n).tokens + (if n ≤ 5 then 3 else 5) ≤ 2 * 0 + max n (if n ≤ 5 then 3 else 5) at h
  split at h <;> omega

/-- From its start a decode has a step for each pixel, two for each token and the two that leave FETCH_T and PAD (R76, R98). -/
theorem stepsLeft_startDecode (hr : RangeOk s) :
    stepsLeft (startDecode s) [] = 1026 + 2 * (refRun (blockByte s) s.blkLen.toNat).tokens := by
  obtain ⟨-, -, hres⟩ := startDecode_ok hr
  rw [stepsLeft, hres]
  change 1024 + 2 * _ + 2 = _
  omega

/-- The EXEC step ends the command, with an error if it was to decode, or starts a decode inside its range (R75). -/
theorem exec_finish_or_startDecode (hlen : s.loaded = true → s.archiveLen.toNat ≤ s.amemSize.toNat) (hop : s.op.toNat ≠ 0)
    (h : exec (decodeOp s.op) s = .next t) :
    (∃ e u, t = finish e u ∧ (s.op.toNat = 4 ∨ s.op.toNat = 5 → e ≠ .ok)) ∨
      ∃ u, t = startDecode u ∧ RangeOk u ∧ (s.op.toNat = 4 ∨ s.op.toNat = 5) ∧ u.busy = s.busy ∧ u.events = s.events := by
  rcases exec_decodeOp_next hop h with ⟨ho, hload⟩ | ⟨ho, rfl⟩ | ⟨-, -, rfl⟩ | ⟨-, -, k, -, rfl⟩ | ⟨ho, -, a, n, -, rfl⟩ |
    ⟨ho, hr, rfl⟩ | ⟨-, -, rfl⟩ | ⟨ho, hl, a, n, hres, rfl⟩ | ⟨-, rfl⟩
  · rcases execLoad_next hload with ⟨e, sig, -, rfl⟩ | ⟨sig, n, -, -, -, -, rfl⟩ <;> exact .inl ⟨_, _, rfl, by omega⟩
  · exact .inl ⟨_, _, rfl, by omega⟩
  · exact .inl ⟨_, _, rfl, nofun⟩
  · exact .inl ⟨_, _, rfl, nofun⟩
  · exact .inl ⟨_, _, rfl, by omega⟩
  · exact .inr ⟨s, rfl, hr, .inl ho, rfl, rfl⟩
  · exact .inl ⟨_, _, rfl, nofun⟩
  · exact .inr ⟨setRange a n s, rfl, ⟨hlen hl, (resolve_found hres).2⟩, .inr ho, rfl, rfl⟩
  · exact .inl ⟨_, _, rfl, nofun⟩

/-- A run of `k` steps from `s` that is busy before it ends in `finish e v`. -/
def FinishesAfter (k : Nat) (s : State) (e : Err) (v : State) : Prop :=
  Host.Core.run Sys2Proof.core k s = .next (finish e v) ∧
    ∀ j, j < k → ∃ u : State, Host.Core.run Sys2Proof.core j s = .next u ∧ u.busy = true

/-- One more step at the start of a run that finishes. -/
theorem FinishesAfter.cons {k : Nat} {e : Err} {v : State} (hb : s.busy = true) (he : s.events = [])
    (hstep : engineStep s = .next t) (h : FinishesAfter k t e v) : FinishesAfter (k + 1) s e v := by
  obtain ⟨hrun, hbusy⟩ := h
  refine ⟨(run_succ he hstep k).trans hrun, fun j hj => ?_⟩
  cases j with
  | zero => exact ⟨s, rfl, hb⟩
  | succ j =>
    obtain ⟨w, hw, hwb⟩ := hbusy j (Nat.lt_of_succ_lt_succ hj)
    exact ⟨w, (run_succ he hstep j).trans hw, hwb⟩

/-- A command whose EXEC step finishes it takes that one step. -/
theorem finishesAfter_one {e : Err} (hb : s.busy = true) (he : s.events = []) (hstep : engineStep s = .next (finish e u)) :
    FinishesAfter 1 s e u :=
  .cons hb he hstep ⟨rfl, fun j hj => absurd hj (Nat.not_lt_zero j)⟩

/-- A started decode of `k` tokens finishes after 1026 + 2k more steps, with its block in place (R76, R103). -/
theorem startDecode_finishes (hr : RangeOk s) (hb : s.busy = true) (he : s.events = []) :
    ∃ v, FinishesAfter (1026 + 2 * (refRun (blockByte s) s.blkLen.toNat).tokens) (startDecode s) .ok v ∧
      blockByte (finish .ok v) = blockByte s ∧ (finish .ok v).blkLen = s.blkLen := by
  obtain ⟨hok, hgrid, -⟩ := startDecode_ok hr
  obtain ⟨v, hrun, -, hsame, -, -, -, -, hbusy⟩ := decode_runs _ (stepsLeft_startDecode hr) hok hgrid he
  refine ⟨v, ⟨hrun, fun j hj => ?_⟩, ?_, ?_⟩
  · obtain ⟨w, hw, hwb⟩ := hbusy j hj
    exact ⟨w, hw, hwb.trans hb⟩
  · exact blockByte_congr (by rw [finish_amem, hsame, startDecode_amem]) (by rw [finish_blkStart, hsame, startDecode_blkStart])
  · rw [finish_blkLen, hsame, startDecode_blkLen]

end CommandSteps

/-- Settles O55: the EXEC step finishes, or it starts a decode whose steps `stepsLeft` counts. -/
theorem everyCommandFinishes : Obligations.EveryCommandFinishes := by
  intro s h hf he
  have hb : s.busy = true := h.busyIff.2 (by simp [hf])
  have hcode (o : BitVec 4) : s.op = o ↔ s.op.toNat = o.toNat := BitVec.toNat_inj.symm
  obtain ⟨t, hstep⟩ := engineStepNeverStops s h
  have hexec : exec (decodeOp s.op) s = .next t := (engineStep_exec hf (h.execOp hf)).symm.trans hstep
  rcases exec_finish_or_startDecode (fun hl => (h.archive hl).1) (h.execOp hf) hexec with
    ⟨e, u, rfl, herr⟩ | ⟨u, rfl, hr, hop, hub, hue⟩
  · obtain ⟨hrun, hbusy⟩ := finishesAfter_one hb he hstep
    refine ⟨1, finish e u, hrun, rfl, rfl, rfl, hbusy, fun _ => rfl, fun ⟨hop, hok⟩ => absurd hok (herr ?_)⟩
    exact hop.imp (hcode 4).1 (hcode 5).1
  · obtain ⟨v, hfin, hblock, hlen⟩ := startDecode_finishes hr (hub.trans hb) (hue.trans he)
    obtain ⟨hrun, hbusy⟩ := hfin.cons hb he hstep
    have hop' : s.op = 4 ∨ s.op = 5 := hop.imp (hcode 4).2 (hcode 5).2
    have htok := refRun_tokens_le (blockByte u) u.blkLen.toNat
    refine ⟨_, finish .ok v, hrun, rfl, rfl, rfl, hbusy, fun hno => ?_, fun _ => ?_⟩
    · rcases hno with ⟨h4, h5⟩ | herr
      · exact absurd hop' (not_or.2 ⟨h4, h5⟩)
      · exact absurd rfl herr
    · rw [hblock, hlen]
      omega

section WindowWrites

variable {s t : State} {w : Word}

/-- An aligned word write is the write of the register at its offset (R70). -/
theorem hostWrite_word {off : BitVec 13} (ha : off.toNat % 4 = 0) : hostWrite off .word w s = writeReg (windowReg off) w s :=
  if_pos ⟨rfl, ha⟩

/-- NOP while BUSY = 0 has no effect (R78). -/
theorem exec_nop_not_busy (hb : s.busy = false) : exec .nop s = .next s := by
  simp [exec, execNop, hb]

/-- NOP while BUSY = 1 is a dropped write (R78). -/
theorem exec_nop_busy (hb : s.busy = true) : exec .nop s = .next (dropWrite s) := if_pos hb

/-- A CMD write while BUSY = 1 is dropped (R74). -/
theorem writeCmd_busy (hb : s.busy = true) : writeCmd w s = .next (dropWrite s) := if_pos hb

/-- A CMD write of NOP while BUSY = 0 has no effect (R74, R78). -/
theorem writeCmd_nop (hb : s.busy = false) (ho : opField w = 0) : writeCmd w s = .next s := by
  rw [writeCmd, hb, if_neg Bool.false_ne_true, ho]
  exact exec_nop_not_busy hb

/-- An opcode that is not NOP's has a value that is not 0 (R65). -/
theorem opcode_toNat_ne_zero {op : BitVec 4} (h : op ≠ 0) : op.toNat ≠ 0 :=
  fun h0 => h (BitVec.eq_of_toNat_eq h0)

/-- A CMD write of a command while BUSY = 0 is its acceptance (R74). -/
theorem writeCmd_accept (hb : s.busy = false) (ho : opField w ≠ 0) : writeCmd w s = .next (accept (opField w) s) := by
  rw [writeCmd, hb, if_neg Bool.false_ne_true, if_neg (opcode_toNat_ne_zero ho)]

/-- A read-only register, a reserved offset or a GRID word ignores a write (R70). -/
theorem writeReg_ignored {off : BitVec 13} (h : off.toNat = 0x010 ∨ off.toNat = 0x014 ∨ 0x024 ≤ off.toNat) :
    writeReg (windowReg off) w s = .next s := by
  unfold windowReg
  split
  case h_5 | h_6 | h_10 | h_11 | h_12 | h_13 | h_14 => rfl
  case h_15 => split <;> rfl
  all_goals omega

/-- A guarded write answers either way, and the guard only chooses the state (R71). -/
theorem ite_next_eq {refuse : Bool} {p : Prop} [Decidable p] (h : refuse = true ↔ p) (x y : State) :
    (if refuse = true then .next x else .next y : Host.Outcome State Fault Refusal) = .next (if p then x else y) := by
  by_cases hp : p
  · rw [if_pos (h.2 hp), if_pos hp]
  · rw [if_neg (hp ∘ h.1), if_neg hp]

/-- A host write of an AMEM byte: everything it can do (R34). -/
theorem hostAmemWrite_next {a : Word} {b : Byte} (h : hostAmemWrite a b s = .next t) : t = amemStore a.toNat b s := by
  unfold hostAmemWrite at h
  split at h
  · split at h
    · cases h; rfl
    · cases h
  · cases h

end WindowWrites

/-- Settles O8: the three branches of the CMD write. -/
theorem cmdWriteAccepts : Obligations.CmdWriteAccepts := fun _ _ =>
  ⟨fun hb => (hostWrite_word rfl).trans (writeCmd_busy hb), fun hb ho => (hostWrite_word rfl).trans (writeCmd_nop hb ho),
    fun hb ho => (hostWrite_word rfl).trans (writeCmd_accept hb ho)⟩

/-- Settles O9: each register's write, by whether its guard refuses it. -/
theorem operandWritesAreGuarded : Obligations.OperandWritesAreGuarded := by
  intro s w
  exact ⟨(hostWrite_word rfl).trans (ite_next_eq Bool.or_eq_true_iff _ _), (hostWrite_word rfl).trans (ite_next_eq .rfl _ _),
    (hostWrite_word rfl).trans (ite_next_eq .rfl _ _), (hostWrite_word rfl).trans (ite_next_eq .rfl _ _)⟩

/-- Settles O10: clearing by `&&` with the complement is the choice on the written bit. -/
theorem statusWriteClears : Obligations.StatusWriteClears := by
  intro s w
  have hclear (b c : Bool) : (b && !c) = if c = true then false else b := by cases b <;> cases c <;> rfl
  rw [← hclear, ← hclear]
  exact hostWrite_word rfl

/-- Settles O11: the CTRL write is its definition. -/
theorem ctrlWriteSetsIrqEn : Obligations.CtrlWriteSetsIrqEn := fun _ _ => hostWrite_word rfl

/-- Settles O12: an ignored offset has no writable register, and an access that is no aligned word is refused either way. -/
theorem otherWritesIgnored : Obligations.OtherWritesIgnored := by
  refine ⟨fun s off w ha hoff => (hostWrite_word ha).trans (writeReg_ignored hoff), fun s off size w hbad => ?_⟩
  have hno : ¬AlignedWord off size := fun ⟨hsize, ha⟩ => hbad.elim (absurd hsize) (absurd ha)
  exact ⟨if_neg hno, if_neg hno⟩

/-- With an event next on the schedule the step is that event, the later ones left (R51). -/
theorem step_of_events_cons {s : State} {e : Event} {es : List Event} (h : s.events = e :: es) :
    step s = runEvent e { s with events := es } := by
  rw [step, h]

/-- In IDLE the engine takes no step (R77). -/
theorem engineStep_idle {s : State} (hf : s.fsm = .idle) : engineStep s = .next s := by
  rw [engineStep, hf]

/-- Settles O20: in IDLE an engine turn and a WAIT leave the engine's state, and the other events are reads and AMEM writes. -/
theorem idleEngineTakesNoStep : Obligations.IdleEngineTakesNoStep := by
  refine ⟨fun _ => engineStep_idle, fun s t hf hstep hwrite hreset => ?_⟩
  cases hev : s.events with
  | nil =>
    cases ((step_of_events_nil hev).trans (engineStep_idle hf)).symm.trans hstep
    rfl
  | cons e es =>
    rw [step_of_events_cons hev] at hstep
    cases e with
    | engine =>
      cases (engineStep_idle (s := { s with events := es }) hf).symm.trans hstep
      rfl
    | read off size =>
      obtain ⟨x, rfl⟩ := hostRead_next hstep
      rfl
    | write off size w => exact absurd hev (hwrite off size w es)
    | amemRead a =>
      obtain ⟨x, rfl⟩ := hostAmemRead_next hstep
      rfl
    | amemWrite a b =>
      cases hostAmemWrite_next hstep
      rfl
    | wait =>
      rcases Bool.eq_false_or_eq_true s.busy with hb | hb
      · have hturn := (hostWait_busy (s := { s with events := es }) hb).trans (engineStep_idle hf)
        cases hturn.symm.trans hstep
        rfl
      · cases (hostWait_not_busy (s := { s with events := es }) hb).symm.trans hstep
        rfl
    | reset => exact absurd hev (hreset es)

/-- Settles O21: NOP and its CMD write, by BUSY. -/
theorem nopHasNoEffect : Obligations.NopHasNoEffect := fun _ _ ho =>
  ⟨fun hb => ⟨exec_nop_not_busy hb, (hostWrite_word rfl).trans (writeCmd_nop hb ho)⟩,
    fun hb => ⟨exec_nop_busy hb, (hostWrite_word rfl).trans (writeCmd_busy hb)⟩⟩

/-- Settles O24: with LOADED = 0 and BUSY = 0 no guard refuses the host's writes. -/
theorem unloadDiscardsArchive : Obligations.UnloadDiscardsArchive := by
  refine fun s => ⟨finish .ok (clearArchive s), rfl, rfl, fun w => hostWrite_word rfl, fun a b ha => ?_⟩
  have hduty : AmemDuty a (finish .ok (clearArchive s)) := ⟨rfl, nofun⟩
  exact ⟨_, hostAmemWrite_of_duty ha hduty b, (amemByte_amemStore ha b _).trans (if_pos rfl)⟩

/-- Settles O25: opcodes 0x6 to 0xF are the two reserved rows, and either row finishes with BADCMD. -/
theorem reservedOpcodesFinishBadCmd : Obligations.ReservedOpcodesFinishBadCmd := by
  refine ⟨fun s op hop => ?_, fun s op => ⟨rfl, rfl⟩⟩
  obtain ⟨-, -, -, -, -, -, h67, h8F⟩ := decodeOp_rows op
  rcases Nat.lt_or_ge op.toNat 8 with hlt | hge
  · rw [h67 (by omega)]
    rfl
  · rw [h8F hge]
    rfl

section FetchedCommand

variable {nbits w : Nat}

/-- A table word is decoded by the low four bits of its value (R64, R65). -/
theorem decodeTableWord_eq {i : Instr} (h : decodeTableWord nbits w = some i) : decodeOp (BitVec.ofNat 4 (w % 2 ^ nbits)) = i := by
  have hdec := decode_command_leBytes (w % 2 ^ nbits) []
  rw [List.append_nil] at hdec
  obtain ⟨-, h⟩ := Option.ite_none_right_eq_some.1 h
  rw [hdec] at h
  exact Option.some.inj h

/-- NOP is the row of opcode 0 alone (R65). -/
theorem decodeOp_eq_nop_iff (op : BitVec 4) : decodeOp op = .nop ↔ op = 0 := by
  revert op; decide

/-- The opcode of a 32-bit word given by its value (R64). -/
theorem opField_ofNat (v : Nat) : opField (BitVec.ofNat 32 v) = BitVec.ofNat 4 v := by
  apply BitVec.eq_of_toNat_eq
  rw [opField_toNat, BitVec.toNat_ofNat, BitVec.toNat_ofNat]
  omega

/-- NOP is placed as a scheduled CMD write in IDLE (log 8). -/
theorem withFetchWord_nop (s : State) (ho : BitVec.ofNat 4 (w % 2 ^ nbits) = 0) :
    s.withFetchWord nbits w =
      { s with busy := false, fsm := .idle, events := wrEvent .cmd (BitVec.ofNat 32 (w % 2 ^ nbits)) :: s.events } := by
  refine if_pos ?_
  rw [opField_ofNat, ho]
  rfl

/-- Any other command is placed as accepted, with the engine's turn scheduled (log 8). -/
theorem withFetchWord_command (s : State) (ho : BitVec.ofNat 4 (w % 2 ^ nbits) ≠ 0) :
    s.withFetchWord nbits w = { accept (BitVec.ofNat 4 (w % 2 ^ nbits)) s with events := .engine :: s.events } := by
  rw [← opField_ofNat] at ho ⊢
  exact if_neg (opcode_toNat_ne_zero ho)

end FetchedCommand

/-- Settles O5: a placed NOP runs at its CMD write, and any other command in the EXEC step after its acceptance. -/
theorem fetchedCommandRuns : Obligations.FetchedCommandRuns := by
  intro s nbits w i h
  cases decodeTableWord_eq h
  by_cases ho : BitVec.ofNat 4 (w % 2 ^ nbits) = 0
  · have hnop := (decodeOp_eq_nop_iff _).2 ho
    rw [withFetchWord_nop s ho, hnop]
    refine ⟨?_, fun _ => rfl, absurd rfl⟩
    rw [step_of_events_cons rfl, exec_nop_not_busy rfl]
    exact (hostWrite_word rfl).trans (writeCmd_nop rfl ((opField_ofNat _).trans ho))
  · have hne : decodeOp (BitVec.ofNat 4 (w % 2 ^ nbits)) ≠ .nop := fun hnop => ho ((decodeOp_eq_nop_iff _).1 hnop)
    rw [withFetchWord_command s ho]
    refine ⟨?_, fun hnop => absurd hnop hne, fun _ => rfl⟩
    rw [step_of_events_cons rfl, runEvent]
    exact engineStep_exec rfl (opcode_toNat_ne_zero ho)

end Sys2Proof.Machine

/-! The statements of 41_archive_loader.md: what LOAD makes of the header, a LOAD repeated, and the offset table that a LOAD leaves. -/

namespace Sys2Proof.Machine

section ArchiveLoader

variable {s t : State}

/-- A read inside AMEM fits a word as wide as its bytes (R42). -/
theorem memRead_eq_toNat {a n w : Nat} (hw : 256 ^ n = 2 ^ w) (h : a + n ≤ s.amemSize.toNat) :
    ∃ v : BitVec w, memRead s a n = some v.toNat := by
  have hbs := amemBytes_of_le s a n h
  have hlt := leNat_lt ((List.range n).map fun i => amemValue s (a + i))
  rw [amemBytes_length hbs, hw] at hlt
  exact ⟨BitVec.ofNatLT _ hlt, by rw [memRead, hbs, Option.map_some, BitVec.toNat_ofNatLT]⟩

/-- LOAD past its length checks, the header's values given as the registers hold them (R81). -/
theorem exec_load_of_header {sig : Word} {n : Half} (hmin : 6 ≤ s.archiveLen.toNat) (hmax : s.archiveLen.toNat ≤ s.amemSize.toNat)
    (hsig : le32 s 0 = some sig.toNat) (hn : le16 s 4 = some n.toNat) :
    exec .load s = .next (loadCount n (latchSignature sig s)) := by
  have h := execLoad_of_header hmin hmax hsig hn
  rwa [BitVec.ofNat_toNat, BitVec.setWidth_eq, BitVec.ofNat_toNat, BitVec.setWidth_eq] at h

/-- An archive longer than AMEM is a BADLEN error (R81). -/
theorem exec_load_of_amemSize_lt (h : s.amemSize.toNat < s.archiveLen.toNat) : exec .load s = .next (loadFail .badLen s) :=
  if_pos h

/-- An archive shorter than its header is a FORMAT error (R81). -/
theorem exec_load_of_lt_header (hmax : s.archiveLen.toNat ≤ s.amemSize.toNat) (h : s.archiveLen.toNat < 6) :
    exec .load s = .next (loadFail .format s) :=
  (if_neg (Nat.not_lt.2 hmax)).trans (if_pos h)

/-- Latching the header that a loaded archive already shows changes nothing (R85). -/
theorem latchHeader_of_loaded (hl : s.loaded = true) : latchCount s.spriteCount (latchSignature s.signature s) = s := by
  rw [latchCount, ← hl]
  rfl

/-- A LOAD that finishes OK leaves a table that fits the archive, and an archive that fits AMEM (R81). -/
theorem exec_load_ok_table_fits (h : exec .load s = .next t) (hok : t.err = .ok) :
    t.archiveLen.toNat ≤ t.amemSize.toNat ∧ 6 + 4 * t.spriteCount.toNat ≤ t.archiveLen.toNat := by
  rcases execLoad_next h with ⟨e, sig, he, rfl⟩ | ⟨sig, n, -, -, hmax, htable, rfl⟩
  · have herr : e = .ok := hok
    rcases he with rfl | rfl <;> cases herr
  · exact ⟨hmax, htable⟩

/-- The offset table holds the entries 0 to N (R35). -/
theorem offsetTable_getElem? {i : Nat} (hi : i ≤ s.spriteCount.toNat) : (offsetTable s)[i]? = some (offEntry s i) := by
  rw [offsetTable, List.getElem?_map, List.getElem?_range (Nat.lt_succ_of_le hi), Option.map_some]

/-- The offset table has N + 1 entries (R35). -/
@[simp] theorem offsetTable_length (s : State) : (offsetTable s).length = s.spriteCount.toNat + 1 := by
  rw [offsetTable, List.length_map, List.length_range]

/-- Every entry but entry 0 is read after the header (R35). -/
theorem offEntry_of_pos {i : Nat} (hi : 1 ≤ i) : offEntry s i = le32 s (6 + 4 * (i - 1)) :=
  if_neg (Nat.ne_of_gt hi)

end ArchiveLoader

/-- Settles O22: the length checks in order, then `exec_load_of_header` split on whether the table fits. -/
theorem loadParsesHeader : Obligations.LoadParsesHeader := by
  refine fun s => ⟨exec_load_of_amemSize_lt, exec_load_of_lt_header, fun hmax hmin => ?_⟩
  obtain ⟨sig, hsig⟩ : ∃ sig : Word, le32 s 0 = some sig.toNat := memRead_eq_toNat rfl (by omega)
  obtain ⟨n, hn⟩ : ∃ n : Half, le16 s 4 = some n.toNat := memRead_eq_toNat rfl (by omega)
  have hload := exec_load_of_header hmin hmax hsig hn
  exact ⟨sig, n, hsig, hn, fun htable => hload.trans (congrArg _ (loadCount_of_lt htable)),
    fun htable => hload.trans (congrArg _ (loadCount_of_le htable))⟩

/-- Settles O46: by R39 item 4 LOAD reads the SIGNATURE and the SPRITE_COUNT that the registers hold. -/
theorem repeatedLoadSucceeds : Obligations.RepeatedLoadSucceeds := by
  intro s hinv hl
  obtain ⟨hmax, htable, hsig, hn⟩ := hinv.archive hl
  have hmin : 6 ≤ s.archiveLen.toNat := le_trans (Nat.le_add_right 6 _) htable
  calc exec .load s
      _ = .next (loadCount s.spriteCount (latchSignature s.signature s)) := exec_load_of_header hmin hmax hsig hn
      _ = .next (finish .ok (latchCount s.spriteCount (latchSignature s.signature s))) := congrArg _ (loadCount_of_le htable)
      _ = .next (finish .ok s) := by rw [latchHeader_of_loaded hl]

/-- Settles O45: the table that LOAD checked fits the archive, so each of its entries is read. -/
theorem offsetTableAfterLoad : Obligations.OffsetTableAfterLoad := by
  intro s t h hok
  obtain ⟨hmax, htable⟩ := exec_load_ok_table_fits h hok
  refine ⟨offsetTable_length t, offsetTable_getElem? (Nat.zero_le _), htable, fun i hpos hi => ?_⟩
  obtain ⟨v, hv⟩ := offEntry_total hmax htable i hi
  exact ⟨v, by rw [offsetTable_getElem? hi, hv], by rw [← offEntry_of_pos hpos, hv]⟩

end Sys2Proof.Machine

/-! The statements of 42_sprite_extractor.md: `resolve` as a function of the sprite's start and end, its corner cases, and EXTRACT. -/

namespace Sys2Proof.Machine

/-- SPRITE_ID is in the table, its entry is `start`, and its end, a zero replaced by the archive's length, is `stop` (R87). -/
structure SpriteBounds (s : State) (start stop : Nat) : Prop where
  idPos : 1 ≤ s.spriteId.toNat
  idLe : s.spriteId.toNat ≤ s.spriteCount.toNat
  startEntry : offEntry s s.spriteId.toNat = some start
  stopEntry : (endEntry s).map (fun stop => if stop = 0 then s.archiveLen.toNat else stop) = some stop

section SpriteRange

variable {s : State} {start stop next : Nat}

/-- An id outside 1..N is not found (R87). -/
theorem resolve_idRange (h : s.spriteId.toNat < 1 ∨ s.spriteCount.toNat < s.spriteId.toNat) :
    resolve s = some (.notFound .idRange) :=
  if_pos h

/-- A zero start is an empty sprite, whatever its end (R87). -/
theorem resolve_zeroOffset (hlo : 1 ≤ s.spriteId.toNat) (hhi : s.spriteId.toNat ≤ s.spriteCount.toNat)
    (hstart : offEntry s s.spriteId.toNat = some start) (h0 : start = 0) : resolve s = some (.notFound .zeroOffset) :=
  (resolve_eq_resolveFrom hlo hhi hstart).trans (if_pos h0)

/-- The bounds of a sprite that is not the last: the next entry is the end (R87). -/
theorem SpriteBounds.of_next (hlo : 1 ≤ s.spriteId.toNat) (hlt : s.spriteId.toNat < s.spriteCount.toNat)
    (hstart : offEntry s s.spriteId.toNat = some start) (hnext : offEntry s (s.spriteId.toNat + 1) = some next) :
    SpriteBounds s start (if next = 0 then s.archiveLen.toNat else next) :=
  ⟨hlo, hlt.le, hstart, by rw [endEntry, if_pos hlt, hnext, Option.map_some]⟩

/-- A next entry that is zero puts the end at the archive's length (R87). -/
theorem SpriteBounds.of_next_zero (hlo : 1 ≤ s.spriteId.toNat) (hlt : s.spriteId.toNat < s.spriteCount.toNat)
    (hstart : offEntry s s.spriteId.toNat = some start) (hnext : offEntry s (s.spriteId.toNat + 1) = some 0) :
    SpriteBounds s start s.archiveLen.toNat :=
  .of_next hlo hlt hstart hnext

/-- A next entry that is not zero is the end itself (R87). -/
theorem SpriteBounds.of_next_ne_zero (hlo : 1 ≤ s.spriteId.toNat) (hlt : s.spriteId.toNat < s.spriteCount.toNat)
    (hstart : offEntry s s.spriteId.toNat = some start) (hnext : offEntry s (s.spriteId.toNat + 1) = some next)
    (h0 : next ≠ 0) : SpriteBounds s start next := by
  have h := SpriteBounds.of_next hlo hlt hstart hnext
  rwa [if_neg h0] at h

/-- The bounds of the last sprite: the archive's length is the end (R87). -/
theorem SpriteBounds.of_last (hlo : 1 ≤ s.spriteId.toNat) (hlast : s.spriteId.toNat = s.spriteCount.toNat)
    (hstart : offEntry s s.spriteId.toNat = some start) : SpriteBounds s start s.archiveLen.toNat :=
  ⟨hlo, hlast.le, hstart, by rw [endEntry, if_neg hlast.not_lt, Option.map_some, ite_self]⟩

/-- The range from a start to an end, in natural numbers: R87's two last checks in order, then the range. -/
theorem rangeOf_eq (start stop len : Nat) : rangeOf start stop len =
    let stop := if stop = 0 then len else stop
    if stop ≤ start then .notFound .emptyRange
    else if len < stop then .notFound .pastEnd
    else .found (BitVec.ofNat 32 start) (BitVec.ofNat 32 (stop - start)) := by
  unfold rangeOf
  dsimp only
  generalize (if stop = 0 then len else stop) = e
  have hempty : (e : Int) - start ≤ 0 ↔ e ≤ start := by omega
  have hpast : (len : Int) < start + ((e : Int) - start) ↔ len < e := by omega
  have hsize : ((e : Int) - start).toNat = e - start := Int.toNat_sub e start
  simp only [gt_iff_lt, hempty, hpast, hsize]

namespace SpriteBounds

variable (h : SpriteBounds s start stop)
include h

/-- `resolve` from the bounds of the sprite (R87). -/
theorem resolve_eq : resolve s = some (
    if start = 0 then .notFound .zeroOffset
    else if stop ≤ start then .notFound .emptyRange
    else if s.archiveLen.toNat < stop then .notFound .pastEnd
    else .found (BitVec.ofNat 32 start) (BitVec.ofNat 32 (stop - start))) := by
  obtain ⟨hlo, hhi, hstart, hstop⟩ := h
  obtain ⟨e, he, rfl⟩ := Option.map_eq_some_iff.1 hstop
  rw [resolve_eq_resolveFrom hlo hhi hstart, resolveFrom, he, Option.map_some, rangeOf_eq]
  split <;> rfl

/-- An end at or before the start (R87). -/
theorem resolve_emptyRange (h0 : start ≠ 0) (hle : stop ≤ start) : resolve s = some (.notFound .emptyRange) := by
  rw [h.resolve_eq, if_neg h0, if_pos hle]

/-- A non-empty range that ends past the archive (R87). -/
theorem resolve_pastEnd (h0 : start ≠ 0) (hlt : start < stop) (hpast : s.archiveLen.toNat < stop) :
    resolve s = some (.notFound .pastEnd) := by
  rw [h.resolve_eq, if_neg h0, if_neg hlt.not_ge, if_pos hpast]

/-- A non-empty range inside the archive is found (R87). -/
theorem resolve_eq_found (h0 : start ≠ 0) (hlt : start < stop) (hin : stop ≤ s.archiveLen.toNat) :
    resolve s = some (.found (BitVec.ofNat 32 start) (BitVec.ofNat 32 (stop - start))) := by
  rw [h.resolve_eq, if_neg h0, if_neg hlt.not_ge, if_neg hin.not_gt]

/-- What is found holds the start and the size unreduced: neither exceeds 32 bits (R87). -/
theorem resolve_found_toNat (h0 : start ≠ 0) (hlt : start < stop) (hin : stop ≤ s.archiveLen.toNat) :
    ∃ a n : Word, resolve s = some (.found a n) ∧ a.toNat = start ∧ n.toNat = stop - start := by
  have hfits {v : Nat} (hv : v ≤ s.archiveLen.toNat) : (BitVec.ofNat 32 v).toNat = v :=
    (BitVec.toNat_ofNat v 32).trans (Nat.mod_eq_of_lt (hv.trans_lt s.archiveLen.isLt))
  exact ⟨_, _, h.resolve_eq_found h0 hlt hin, hfits (by omega), hfits (by omega)⟩

end SpriteBounds

/-- EXTRACT of a loaded archive settles the result of `resolve` (R88). -/
theorem exec_extract_of_resolve (hl : s.loaded = true) {r : Resolved} (hr : resolve s = some r) :
    exec .extract s = settle (finish .ok) (some r) s :=
  (if_pos hl).trans (by rw [hr])

/-- EXTRACT without a loaded archive finishes with NOTLOADED (R88). -/
theorem exec_extract_not_loaded (hl : s.loaded = false) : exec .extract s = .next (finish .notLoaded s) :=
  if_neg (ne_true_of_eq_false hl)

end SpriteRange

/-- Settles O27: the entries read give the sprite's bounds, and `resolve` follows them check by check. -/
theorem resolveComputesRange : Obligations.ResolveComputesRange := by
  intro s hinv hl
  obtain ⟨hmax, htable, -, -⟩ := hinv.archive hl
  refine ⟨resolve_total hmax htable, resolve_idRange, fun hlo hhi => ?_⟩
  obtain ⟨start, hstart⟩ := offEntry_total hmax htable _ hhi
  have hread : le32 s (6 + 4 * (s.spriteId.toNat - 1)) = some start := (offEntry_of_pos hlo).symm.trans hstart
  obtain ⟨stop, hbounds, hmid, hlast⟩ : ∃ stop, SpriteBounds s start stop ∧
      (s.spriteId.toNat < s.spriteCount.toNat → ∃ next, le32 s (6 + 4 * s.spriteId.toNat) = some next ∧
        stop = if next = 0 then s.archiveLen.toNat else next) ∧
      (s.spriteId.toNat = s.spriteCount.toNat → stop = s.archiveLen.toNat) := by
    rcases hhi.lt_or_eq with hlt | heq
    · obtain ⟨next, hnext⟩ := offEntry_total hmax htable _ hlt
      exact ⟨_, .of_next hlo hlt hstart hnext, fun _ => ⟨next, hnext, rfl⟩, fun heq => absurd heq hlt.ne⟩
    · exact ⟨_, .of_last hlo heq hstart, fun hlt => absurd heq hlt.ne, fun _ => rfl⟩
  refine ⟨start, stop, by omega, htable, hread, hmid, hlast, resolve_zeroOffset hlo hhi hstart, hbounds.resolve_emptyRange,
    hbounds.resolve_pastEnd, fun h0 hlt hin => ?_⟩
  obtain ⟨a, n, hfound, ha, hn⟩ := hbounds.resolve_found_toNat h0 hlt hin
  exact ⟨a, n, hfound, ha, hn, by omega, by omega⟩

/-- Settles O28: each row of R89's table is one outcome of `resolve` at the bounds that the row's entries give. -/
theorem resolveCornerCases : Obligations.ResolveCornerCases := by
  intro s hinv hl
  obtain ⟨-, htable, -, -⟩ := hinv.archive hl
  refine ⟨fun hid => ?_, fun hgt => resolve_idRange (.inr hgt), fun hcount => ?_, fun hlo hhi start hstart => ?_⟩
  · exact resolve_idRange (.inl (by rw [hid]; decide))
  · exact resolve_idRange (by rw [hcount]; exact Nat.lt_or_ge _ 1)
  have hnext {next : Nat} (hlt hent) (h0 : next ≠ 0) : SpriteBounds s start next := .of_next_ne_zero hlo hlt hstart hent h0
  refine ⟨resolve_zeroOffset hlo hhi hstart, fun hlt hent h0 hin => ?_, fun heq h0 hin => ?_, fun hlt h0 hent => ?_,
    fun next hlt hent hle h0 => ?_, fun heq hge => ?_, fun next hlt hent hpast hgt h0 => ?_,
    fun next hlt hent hpos _ hgt hin => ?_⟩
  · exact (SpriteBounds.of_next_zero hlo hlt hstart hent).resolve_eq_found h0 hin le_rfl
  · exact (SpriteBounds.of_last hlo heq hstart).resolve_eq_found h0 hin le_rfl
  · exact (hnext hlt hent h0).resolve_emptyRange h0 le_rfl
  · exact (hnext hlt hent h0).resolve_emptyRange (Nat.ne_zero_of_lt hle) hle.le
  · exact (SpriteBounds.of_last hlo heq hstart).resolve_emptyRange (by omega) hge
  · exact (hnext hlt hent (Nat.ne_zero_of_lt hgt)).resolve_pastEnd h0 hgt hpast
  · exact (hnext hlt hent (Nat.ne_zero_of_lt hgt)).resolve_eq_found (Nat.ne_of_gt hpos) hgt hin

/-- Settles O26: EXTRACT is the LOADED test, then `settle` on the result of `resolve`. -/
theorem extractReturnsRange : Obligations.ExtractReturnsRange := fun _ =>
  ⟨exec_extract_not_loaded, fun hl _ => exec_extract_of_resolve hl, fun hl _ _ => exec_extract_of_resolve hl⟩

end Sys2Proof.Machine

/-! The statements of 43_rle_decoder.md: what starts a decode, what each of its steps and tokens does, and that the machine computes
the reference decode of its block's bytes and of nothing else. -/

namespace Sys2Proof.Machine

/-- Settles O59: the loop never passes the budget, and the padding fills it. -/
theorem referenceGives1024Pixels : Obligations.ReferenceGives1024Pixels := fun b n =>
  refPad_length _ (refLoop_length_le b n n (refStart n) (Nat.zero_le _))

section FinishedDecode

variable {s u : State} {p : List Word}

/-- In PAD with a full budget nothing is left of the reference decode (R103, R113). -/
theorem resume_pad_full (hf : s.fsm = .pad) (hp : p.length = Config.gridPixels) : resume s p = ⟨s.cursor.toNat, p, 0⟩ := by
  simp only [resume, hf, refPad_full p hp]

/-- With the whole budget written the writer is full (R31, R39 item 2). -/
theorem Positioned.full_of_pixcount (h : Positioned s) (hp : s.pixcount.toNat = Config.gridPixels) : s.full = true := by
  by_contra hf
  have hpos := h.position
  rw [Bool.eq_false_of_not_eq_true hf, Bool.toNat_false, hp, Config.gridPixels] at hpos
  have hr := s.row.isLt
  have hc := s.col.isLt
  omega

/-- An EXEC step into FETCH_T is the start of a decode inside its range (R75, R98). -/
theorem exec_starts_decode (hf : s.fsm = .exec) (hlen : s.loaded = true → s.archiveLen.toNat ≤ s.amemSize.toNat)
    (hstep : engineStep s = .next u) (hu : u.fsm = .fetchT) : ∃ a, u = startDecode a ∧ RangeOk a ∧ a.events = s.events := by
  rcases engineStep_next hstep with ⟨h, -⟩ | ⟨-, hop, hexec⟩ | ⟨h, -⟩ | ⟨h, -⟩ | ⟨h, -⟩ | ⟨h, -⟩ | ⟨h, -⟩
  case inr.inl =>
    rcases exec_finish_or_startDecode hlen hop hexec with ⟨e, a, rfl, -⟩ | ⟨a, rfl, hr, -, -, he⟩
    · cases hu
    · exact ⟨a, rfl, hr, he⟩
  all_goals cases hf.symm.trans h

end FinishedDecode

/-- Settles O57: PAD with a full budget is the only step into IDLE, and there the pixels held are all that the decode owed. -/
theorem decodeFinishHoldsReference : Obligations.DecodeFinishHoldsReference := by
  intro s t h hd hstep hidle
  obtain ⟨p, hgrid, hcur, hpix⟩ := h.output hd
  rcases engineStep_decoding (h.decodeOk hd) hgrid with ⟨hf, hfull, hfin⟩ | ⟨u, q, k, hu, hds⟩
  · cases hfin.symm.trans hstep
    rw [resume_pad_full hf hfull] at hcur hpix
    rw [← hpix]
    exact ⟨rfl, hfull, fun k hk => hgrid.2 k (by rw [hfull]; exact hk), hcur⟩
  · cases hu.symm.trans hstep
    exact absurd hidle (FsmState.ne_of_decoding hds.ok.decoding).1

/-- Settles O56: the EXEC step starts a decode, which `decode_runs` follows to its finish. -/
theorem decodeComputesReference : Obligations.DecodeComputesReference := by
  intro s u h hf he hstep hu
  obtain ⟨a, rfl, hr, hae⟩ := exec_starts_decode hf (fun hl => (h.archive hl).1) hstep hu
  obtain ⟨hok, hgrid, hres⟩ := startDecode_ok hr
  obtain ⟨v, hrun, hvok, -, hvf, ⟨hvlen, hvword⟩, hfull, hcur, -⟩ := decode_runs _ rfl hok hgrid (hae.trans he)
  rw [hres] at hvlen hvword hfull hcur
  have hpix : v.pixcount.toNat = Config.gridPixels := hvlen.symm.trans hfull
  have hvfull := hvok.positioned.full_of_pixcount hpix
  obtain ⟨hrow, hcol⟩ := hvok.positioned.fullOrigin hvfull
  exact ⟨_, finish .ok v, (run_succ he hstep _).trans hrun, rfl, rfl, rfl, hfull, fun j hj => hvword j (by rw [hfull]; exact hj),
    hcur, BitVec.eq_of_toNat_eq hpix, hvfull, hrow, hcol, hvok.runZero (by simp [hvf]) (by simp [hvf])⟩

section DecodeCommands

variable {s t : State}

/-- EXTRACT_DECODE of a loaded archive settles the result of `resolve` (R97). -/
theorem exec_extractDecode_of_resolve (hl : s.loaded = true) {r : Resolved} (hr : resolve s = some r) :
    exec .extractDecode s = settle startDecode (some r) s :=
  (if_pos hl).trans (by rw [hr])

/-- EXTRACT_DECODE without a loaded archive finishes with NOTLOADED (R97). -/
theorem exec_extractDecode_not_loaded (hl : s.loaded = false) : exec .extractDecode s = .next (finish .notLoaded s) :=
  if_neg (ne_true_of_eq_false hl)

/-- EXTRACT_DECODE: what it can leave in ERR (R97). -/
theorem exec_extractDecode_err (h : exec .extractDecode s = .next t) :
    t.err = .notLoaded ∨ t.err = .notFound ∨ t.err = s.err := by
  rcases Bool.eq_false_or_eq_true s.loaded with hl | hl
  · rcases settle_next ((if_pos hl).symm.trans h) with ⟨k, -, rfl⟩ | ⟨a, n, -, rfl⟩
    · exact .inr (.inl rfl)
    · exact .inr (.inr rfl)
  · cases (exec_extractDecode_not_loaded hl).symm.trans h
    exact .inl rfl

end DecodeCommands

/-- Settles O30: the two sides of `execDecode_eq`. -/
theorem decodeChecksRangeAndStarts : Obligations.DecodeChecksRangeAndStarts := fun s =>
  ⟨fun hmax hin => (execDecode_eq s).trans (if_pos ⟨hmax, hin⟩),
    fun hout => (execDecode_eq s).trans (if_neg fun ⟨hmax, hin⟩ => hout.elim hmax.not_gt hin.not_gt)⟩

/-- Settles O31: the LOADED test, then `settle` on the result of `resolve`, whose Found range is inside the archive. -/
theorem extractDecodeStartsBlock : Obligations.ExtractDecodeStartsBlock := by
  refine fun s => ⟨exec_extractDecode_not_loaded, fun hl k hk => exec_extractDecode_of_resolve hl hk,
    fun hl a n hr => exec_extractDecode_of_resolve hl hr, fun hinv hl a n hr => ⟨(resolve_found hr).2, (hinv.archive hl).1⟩,
    fun t h herr => ?_⟩
  rcases exec_extractDecode_err h with he | he | he
  · cases he.symm.trans herr
  · cases he.symm.trans herr
  · exact he.symm.trans herr

section DecodeSteps

variable {s : State}

/-- FETCH_T with two bytes left and the budget not full (R99). -/
theorem engineStep_fetchT_reads (hf : s.fsm = .fetchT) (hr : RangeOk s) (hc : s.cursor.toNat + 2 ≤ s.blkLen.toNat)
    (hlt : s.pixcount.toNat < Config.gridPixels) :
    engineStep s = .next (loadRun (BitVec.ofNat 16 (ref16 (blockByte s) s.cursor.toNat)) .emitT s) := by
  rw [engineStep, hf]
  exact (if_pos ⟨hc, hlt⟩).trans (runToken_trun s hr hc)

/-- FETCH_T at the end of the block, or with a full budget (R99). -/
theorem engineStep_fetchT_stops (hf : s.fsm = .fetchT)
    (h : ¬(s.cursor.toNat + 2 ≤ s.blkLen.toNat ∧ s.pixcount.toNat < Config.gridPixels)) :
    engineStep s = .next (goTo .pad s) := by
  rw [engineStep, hf]
  exact if_neg h

/-- EMIT_T at the end of its run (R100). -/
theorem engineStep_emitT_ends (hf : s.fsm = .emitT) (hrun : s.run.toNat = 0) : engineStep s = .next (goTo .fetchC s) := by
  rw [engineStep, hf]
  exact if_pos hrun

/-- EMIT_T with a full budget (R100). -/
theorem engineStep_emitT_clips (hf : s.fsm = .emitT) (hrun : s.run.toNat ≠ 0) (hp : s.pixcount.toNat = Config.gridPixels) :
    engineStep s = .next (clipRun .fetchC s) := by
  rw [engineStep, hf]
  exact (if_neg hrun).trans (if_pos hp)

/-- EMIT_T with a pixel to write (R100). -/
theorem engineStep_emitT_writes (hf : s.fsm = .emitT) (hrun : s.run.toNat ≠ 0) (hp : s.pixcount.toNat ≠ Config.gridPixels) :
    engineStep s = .next (countRun (writePixel transparent s)) := by
  rw [engineStep, hf]
  exact (if_neg hrun).trans (if_neg hp)

/-- FETCH_C with two bytes left (R101). -/
theorem engineStep_fetchC_reads (hf : s.fsm = .fetchC) (hr : RangeOk s) (hc : s.cursor.toNat + 2 ≤ s.blkLen.toNat) :
    engineStep s = .next (loadRun (BitVec.ofNat 16 (ref16 (blockByte s) s.cursor.toNat)) .emitC s) := by
  rw [engineStep, hf]
  exact (if_pos hc).trans (runToken_crun s hr hc)

/-- FETCH_C at the end of the block (R101). -/
theorem engineStep_fetchC_stops (hf : s.fsm = .fetchC) (hc : ¬s.cursor.toNat + 2 ≤ s.blkLen.toNat) :
    engineStep s = .next (goTo .pad s) := by
  rw [engineStep, hf]
  exact if_neg hc

/-- EMIT_C at the end of its run (R102). -/
theorem engineStep_emitC_ends (hf : s.fsm = .emitC) (hrun : s.run.toNat = 0) : engineStep s = .next (goTo .fetchT s) := by
  rw [engineStep, hf]
  exact if_pos hrun

/-- EMIT_C with a full budget (R102). -/
theorem engineStep_emitC_clips (hf : s.fsm = .emitC) (hrun : s.run.toNat ≠ 0) (hp : s.pixcount.toNat = Config.gridPixels) :
    engineStep s = .next (clipRun .fetchT s) := by
  rw [engineStep, hf]
  exact (if_neg hrun).trans (if_pos hp)

/-- EMIT_C with a pixel to write and three bytes left for it (R102). -/
theorem engineStep_emitC_writes (hf : s.fsm = .emitC) (hrun : s.run.toNat ≠ 0) (hp : s.pixcount.toNat ≠ Config.gridPixels)
    (hr : RangeOk s) (hc : s.cursor.toNat + 3 ≤ s.blkLen.toNat) :
    engineStep s = .next (countRun (passRgb (writePixel (rgbAt s) s))) := by
  rw [engineStep, hf]
  exact (if_neg hrun).trans ((if_neg hp).trans ((if_pos hc).trans (runToken_rgb s hr hc)))

/-- EMIT_C with a pixel to write and fewer than three bytes left (R102). -/
theorem engineStep_emitC_cuts (hf : s.fsm = .emitC) (hrun : s.run.toNat ≠ 0) (hp : s.pixcount.toNat ≠ Config.gridPixels)
    (hc : ¬s.cursor.toNat + 3 ≤ s.blkLen.toNat) : engineStep s = .next (cutRun s) := by
  rw [engineStep, hf]
  exact (if_neg hrun).trans ((if_neg hp).trans (if_neg hc))

/-- Reading a run length leaves the cursor two bytes on (R99, R101). -/
theorem loadRun_eq_ofNat (n : Nat) (f : FsmState) (s : State) : loadRun (BitVec.ofNat 16 n) f s =
    { s with run := BitVec.ofNat 16 n, cursor := BitVec.ofNat 32 (s.cursor.toNat + 2), fsm := f } := by
  rw [BitVec.ofNat_add, BitVec.ofNat_toNat, BitVec.setWidth_eq]
  rfl

/-- An opaque pixel word by its channels (R107, R108). -/
theorem px_opaque (r g b : Byte) :
    px r g b 255 = BitVec.ofNat 32 (0xFF000000 + 65536 * b.toNat + 256 * g.toNat + r.toNat) := by
  have ha : (255 : Byte).toNat = 255 := rfl
  rw [px, ha]
  congr 1
  omega

/-- RUN is not at its end (R100, R102). -/
theorem run_toNat_ne_zero (h : s.run ≠ 0) : s.run.toNat ≠ 0 := fun h0 => h (BitVec.eq_of_toNat_eq h0)

/-- The budget is not full (R100, R102). -/
theorem pixcount_toNat_ne (h : s.pixcount ≠ 1024) : s.pixcount.toNat ≠ Config.gridPixels := fun hp =>
  h (BitVec.eq_of_toNat_eq hp)

/-- A run that is not at its end counts down without a borrow (R29). -/
theorem run_sub_one_toNat (h : s.run ≠ 0) : (s.run - 1).toNat = s.run.toNat - 1 := by
  have := run_toNat_ne_zero h
  bv_omega

/-- Three bytes of the block are passed without a carry (R28). -/
theorem cursor_add_three_toNat (hc : s.cursor.toNat + 3 ≤ s.blkLen.toNat) : (s.cursor + 3).toNat = s.cursor.toNat + 3 := by
  bv_omega

/-- A written pixel as a record update (R110). -/
theorem writePixel_eq (v : Word) (s : State) : writePixel v s = { s with
    pixcount := s.pixcount + 1, row := (advance s).row, col := (advance s).col, full := (advance s).full
    grid := sparseSet s.grid (gridIndex s) v } := rfl

/-- A pixel of a transparent run as a record update (R100). -/
theorem countRun_writePixel (v : Word) (s : State) : countRun (writePixel v s) = { s with
    run := s.run - 1, pixcount := s.pixcount + 1, row := (advance s).row, col := (advance s).col, full := (advance s).full
    grid := sparseSet s.grid (gridIndex s) v } := by
  rw [writePixel_eq]
  rfl

/-- A pixel of a colored run as a record update (R102). -/
theorem countRun_passRgb_writePixel (v : Word) (s : State) : countRun (passRgb (writePixel v s)) = { s with
    cursor := s.cursor + 3, run := s.run - 1, pixcount := s.pixcount + 1, row := (advance s).row, col := (advance s).col
    full := (advance s).full, grid := sparseSet s.grid (gridIndex s) v } := by
  rw [writePixel_eq]
  rfl

end DecodeSteps

/-- Settles O33: TRUN and CRUN are `loadRun`; RGB is one opaque pixel at the writer's position. -/
theorem streamTokensComplete : Obligations.StreamTokensComplete := by
  refine ⟨fun s n => ⟨rfl, rfl⟩, fun s r g b => ?_⟩
  have hstep : exec (.rgb r g b) s = .next (countRun (passRgb (writePixel (px r g b 255) s))) := rfl
  rw [countRun_passRgb_writePixel, px_opaque] at hstep
  exact ⟨_, hstep, rfl, rfl, rfl, fun k => sparseGet_sparseSet s.grid (gridIndex s) k _, rfl, rfl, rfl, rfl⟩

/-- Settles O34: the two sides of FETCH_T's test. -/
theorem fetchTStepReadsT : Obligations.FetchTStepReadsT := by
  refine fun s hf => ⟨fun hr hc hlt => ?_, fun hstop => engineStep_fetchT_stops hf fun ⟨hc, hlt⟩ => ?_⟩
  · rw [engineStep_fetchT_reads hf hr hc hlt, loadRun_eq_ofNat]
    rfl
  · exact hstop.elim hc.not_gt (Nat.not_le.2 hlt)

/-- Settles O35: the three branches of EMIT_T. -/
theorem emitTStepEmitsTransparent : Obligations.EmitTStepEmitsTransparent := by
  refine fun s hf => ⟨fun hrun => engineStep_emitT_ends hf (congrArg BitVec.toNat hrun),
    fun hrun hp => engineStep_emitT_clips hf (run_toNat_ne_zero hrun) (congrArg BitVec.toNat hp), fun hrun hp => ?_⟩
  have hstep := engineStep_emitT_writes hf (run_toNat_ne_zero hrun) (pixcount_toNat_ne hp)
  rw [countRun_writePixel] at hstep
  exact ⟨_, hstep, fun k => sparseGet_sparseSet s.grid (gridIndex s) k _, run_sub_one_toNat hrun, rfl, rfl, rfl, rfl, rfl⟩

/-- Settles O36: the two sides of FETCH_C's test. -/
theorem fetchCStepReadsC : Obligations.FetchCStepReadsC := by
  refine fun s hf => ⟨fun hr hc => ?_, fun hstop => engineStep_fetchC_stops hf (Nat.not_le.2 hstop)⟩
  rw [engineStep_fetchC_reads hf hr hc, loadRun_eq_ofNat]
  rfl

/-- Settles O37: the four branches of EMIT_C. -/
theorem emitCStepEmitsColored : Obligations.EmitCStepEmitsColored := by
  refine fun s hf => ⟨fun hrun => engineStep_emitC_ends hf (congrArg BitVec.toNat hrun),
    fun hrun hp => engineStep_emitC_clips hf (run_toNat_ne_zero hrun) (congrArg BitVec.toNat hp),
    fun hrun hp hc => engineStep_emitC_cuts hf (run_toNat_ne_zero hrun) (pixcount_toNat_ne hp) (Nat.not_le.2 hc),
    fun hrun hp hc hr => ?_⟩
  have hstep := engineStep_emitC_writes hf (run_toNat_ne_zero hrun) (pixcount_toNat_ne hp) hr hc
  rw [countRun_passRgb_writePixel] at hstep
  exact ⟨_, hstep, fun k => sparseGet_sparseSet s.grid (gridIndex s) k _, cursor_add_three_toNat hc, run_sub_one_toNat hrun,
    rfl, rfl, rfl, rfl, rfl⟩

/-! ### Two decodes in lockstep -/

/-- What one step of a decode does, apart from the machine it is done in (R99 to R102, R113). -/
inductive DecodeMove where
  | goTo (f : FsmState)
  | load (n : Half) (f : FsmState)
  | clip (f : FsmState)
  | cut
  | emitTransparent
  | emitColored (v : Word)
  | pad
  | finish

/-- The move made in a machine. -/
def DecodeMove.apply : DecodeMove → State → State
  | .goTo f, s => Machine.goTo f s
  | .load n f, s => loadRun n f s
  | .clip f, s => clipRun f s
  | .cut, s => cutRun s
  | .emitTransparent, s => countRun (writePixel transparent s)
  | .emitColored v, s => countRun (passRgb (writePixel v s))
  | .pad, s => writePixel transparent s
  | .finish, s => Machine.finish .ok s

/-- The move that a decode makes next, from the decoder's registers and the block's bytes alone. IDLE and EXEC are no states of a
decode, and stay. -/
def decodeMove (s : State) : DecodeMove :=
  match s.fsm with
  | .idle | .exec => .goTo s.fsm
  | .fetchT =>
      if s.cursor.toNat + 2 ≤ s.blkLen.toNat ∧ s.pixcount.toNat < Config.gridPixels then
        .load (BitVec.ofNat 16 (ref16 (blockByte s) s.cursor.toNat)) .emitT
      else .goTo .pad
  | .emitT =>
      if s.run.toNat = 0 then .goTo .fetchC
      else if s.pixcount.toNat = Config.gridPixels then .clip .fetchC
      else .emitTransparent
  | .fetchC =>
      if s.cursor.toNat + 2 ≤ s.blkLen.toNat then .load (BitVec.ofNat 16 (ref16 (blockByte s) s.cursor.toNat)) .emitC
      else .goTo .pad
  | .emitC =>
      if s.run.toNat = 0 then .goTo .fetchT
      else if s.pixcount.toNat = Config.gridPixels then .clip .fetchT
      else if s.cursor.toNat + 3 ≤ s.blkLen.toNat then .emitColored (rgbAt s)
      else .cut
  | .pad => if s.pixcount.toNat < Config.gridPixels then .pad else .finish

/-- The machine of `c` with the decoder of `s`: its control state and registers, and the length of its block. -/
def withDecoder (s c : State) : State :=
  { c with
    fsm := s.fsm, cursor := s.cursor, run := s.run, pixcount := s.pixcount, row := s.row, col := s.col, full := s.full,
    shortTail := s.shortTail, runClipped := s.runClipped, blkLen := s.blkLen }

@[simp] theorem withDecoder_fsm (s c : State) : (withDecoder s c).fsm = s.fsm := rfl
@[simp] theorem withDecoder_cursor (s c : State) : (withDecoder s c).cursor = s.cursor := rfl
@[simp] theorem withDecoder_run (s c : State) : (withDecoder s c).run = s.run := rfl
@[simp] theorem withDecoder_pixcount (s c : State) : (withDecoder s c).pixcount = s.pixcount := rfl
@[simp] theorem withDecoder_blkLen (s c : State) : (withDecoder s c).blkLen = s.blkLen := rfl

/-- Two decodes at the same point of the same bytes, with nothing scheduled: the decoders are the same, and so are the pixels
written so far. The second one's block is in range; the first one's is part of `DecodeOk`. -/
structure Lockstep (s t : State) : Prop where
  same : t = withDecoder s t
  bytes : ∀ k, k < s.blkLen.toNat → blockByte s k = blockByte t k
  words : ∀ j, j < s.pixcount.toNat → gridWord s j = gridWord t j
  range : RangeOk t
  noEvents : s.events = [] ∧ t.events = []

section LockstepRuns

variable {s t : State} {p : List Word}

/-- Inside its range a decode's step is its next move. -/
theorem engineStep_eq_decodeMove (hd : s.fsm.decoding = true) (hr : RangeOk s) :
    engineStep s = .next ((decodeMove s).apply s) := by
  unfold decodeMove
  cases hf : s.fsm with
  | idle => exact absurd hf (FsmState.ne_of_decoding hd).1
  | exec => exact absurd hf (FsmState.ne_of_decoding hd).2
  | fetchT =>
    dsimp only
    split_ifs with hread
    · exact engineStep_fetchT_reads hf hr hread.1 hread.2
    · exact engineStep_fetchT_stops hf hread
  | emitT =>
    dsimp only
    split_ifs with hrun hp
    · exact engineStep_emitT_ends hf hrun
    · exact engineStep_emitT_clips hf hrun hp
    · exact engineStep_emitT_writes hf hrun hp
  | fetchC =>
    dsimp only
    split_ifs with hc
    · exact engineStep_fetchC_reads hf hr hc
    · exact engineStep_fetchC_stops hf hc
  | emitC =>
    dsimp only
    split_ifs with hrun hp hc
    · exact engineStep_emitC_ends hf hrun
    · exact engineStep_emitC_clips hf hrun hp
    · exact engineStep_emitC_writes hf hrun hp hr hc
    · exact engineStep_emitC_cuts hf hrun hp hc
  | pad =>
    rw [engineStep, hf]
    unfold padStep
    dsimp only
    split <;> rfl

/-- The next move depends on the decoder and on the bytes inside the block (R105). -/
theorem decodeMove_withDecoder {c : State} (h : ∀ k, k < s.blkLen.toNat → blockByte s k = blockByte (withDecoder s c) k) :
    decodeMove (withDecoder s c) = decodeMove s := by
  have href (hc : s.cursor.toNat + 2 ≤ s.blkLen.toNat) :
      ref16 (blockByte (withDecoder s c)) s.cursor.toNat = ref16 (blockByte s) s.cursor.toNat := by
    rw [ref16, ← h _ (by omega), ← h _ (by omega), ref16]
  have hrgb (hc : s.cursor.toNat + 3 ≤ s.blkLen.toNat) : rgbAt (withDecoder s c) = rgbAt s := by
    rw [rgbAt, withDecoder_cursor, ← h _ (by omega), ← h _ (by omega), ← h _ (by omega), rgbAt]
  simp only [decodeMove, withDecoder_fsm, withDecoder_cursor, withDecoder_run, withDecoder_pixcount, withDecoder_blkLen]
  cases s.fsm with
  | idle | exec | emitT | pad => rfl
  | fetchT => exact ite_congr rfl (fun hc => by rw [href hc.1]) fun _ => rfl
  | fetchC => exact ite_congr rfl (fun hc => by rw [href hc]) fun _ => rfl
  | emitC =>
    refine ite_congr rfl (fun _ => rfl) fun _ => ite_congr rfl (fun _ => rfl) fun _ => ?_
    exact ite_congr rfl (fun hc => by rw [hrgb hc]) fun _ => rfl

/-- A move acts on the decoder alike in every machine. -/
theorem DecodeMove.apply_withDecoder (m : DecodeMove) (s c : State) :
    m.apply (withDecoder s c) = withDecoder (m.apply s) (m.apply (withDecoder s c)) := by
  cases m <;> rfl

/-- A move leaves the archive, the block and the schedule alone. -/
theorem DecodeMove.apply_frame (m : DecodeMove) (s : State) :
    (m.apply s).archiveLen = s.archiveLen ∧ (m.apply s).amemSize = s.amemSize ∧ (m.apply s).amem = s.amem ∧
      (m.apply s).blkStart = s.blkStart ∧ (m.apply s).blkLen = s.blkLen ∧ (m.apply s).events = s.events := by
  cases m <;> simp [apply]

/-- A move keeps the bytes of the block, and its range. -/
theorem DecodeMove.apply_block (m : DecodeMove) (s : State) :
    blockByte (m.apply s) = blockByte s ∧ (RangeOk s → RangeOk (m.apply s)) := by
  obtain ⟨harchive, hsize, hamem, hstart, hlen, -⟩ := m.apply_frame s
  refine ⟨blockByte_congr hamem hstart, fun hr => ?_⟩
  rw [RangeOk, harchive, hsize, hstart, hlen]
  exact hr

/-- A move other than a pixel's leaves the pixels; a pixel's writes the next word, while the budget has room. -/
theorem DecodeMove.apply_words (m : DecodeMove) (s : State) :
    ((m.apply s).pixcount = s.pixcount ∧ ∀ c k, gridWord (m.apply c) k = gridWord c k) ∨
      ∃ v, (m.apply s).pixcount = s.pixcount + 1 ∧
        ∀ c k, gridWord (m.apply c) k = if k = gridIndex c then some v else gridWord c k := by
  cases m with
  | goTo | load | clip | cut | finish => exact .inl ⟨rfl, fun _ _ => rfl⟩
  | emitTransparent | pad => exact .inr ⟨transparent, rfl, gridWord_writePixel transparent⟩
  | emitColored v => exact .inr ⟨v, rfl, gridWord_writePixel v⟩

/-- A pixel written by two decodes in lockstep, with the budget not passed, extends the words they share (R110). -/
theorem Lockstep.words_apply (h : Lockstep s t) {m : DecodeMove} (hs : Positioned s) (hm : Positioned (m.apply s)) :
    ∀ j, j < (m.apply s).pixcount.toNat → gridWord (m.apply s) j = gridWord (m.apply t) j := by
  intro j hj
  rcases m.apply_words s with ⟨hpix, hword⟩ | ⟨v, hpix, hword⟩
  · rw [hword, hword, h.words j (hpix ▸ hj)]
  · have hidx : gridIndex t = gridIndex s := by rw [h.same]; rfl
    have hle := hs.le
    have hle' := hm.le
    simp only [Config.gridPixels] at hle hle'
    rw [hpix] at hj hle'
    have hadd : (s.pixcount + 1).toNat = s.pixcount.toNat + 1 := by bv_omega
    rw [hword, hword, hidx, (hs.index (by rw [Config.gridPixels]; omega)).2]
    split
    · rfl
    · exact h.words j (by omega)

/-- Decodes in lockstep stay so when both make the same move. -/
theorem Lockstep.apply (h : Lockstep s t) {m : DecodeMove} (hs : Positioned s) (hm : Positioned (m.apply s)) :
    Lockstep (m.apply s) (m.apply t) := by
  obtain ⟨-, -, -, -, hlen, hevents⟩ := m.apply_frame s
  obtain ⟨-, -, -, -, -, hevents'⟩ := m.apply_frame t
  refine ⟨?_, ?_, h.words_apply hs hm, (m.apply_block t).2 h.range, hevents.trans h.noEvents.1, hevents'.trans h.noEvents.2⟩
  · rw [h.same]
    exact m.apply_withDecoder s t
  · rw [hlen, (m.apply_block s).1, (m.apply_block t).1]
    exact h.bytes

/-- The second of two decodes in lockstep makes the first one's move. -/
theorem Lockstep.engineStep_eq (h : Lockstep s t) (hd : s.fsm.decoding = true) :
    engineStep t = .next ((decodeMove s).apply t) := by
  have hmove : decodeMove t = decodeMove s := by
    rw [h.same]
    exact decodeMove_withDecoder (h.same ▸ h.bytes)
  have hdt : t.fsm.decoding = true := by rw [h.same]; exact hd
  rw [engineStep_eq_decodeMove hdt h.range, hmove]

/-- A finished command with nothing scheduled stays as it is (R77). -/
theorem run_idle (hf : s.fsm = .idle) (he : s.events = []) (k : Nat) : Host.Core.run Sys2Proof.core k s = .next s := by
  induction k with
  | zero => rfl
  | succ k ih => rw [run_succ he (engineStep_idle hf), ih]

/-- Decodes in lockstep run in lockstep, to their ends and after (R105). -/
theorem Lockstep.run (k : Nat) (h : Lockstep s t) (hs : DecodeOk s) (hp : GridHolds s p) :
    ∃ u v, Host.Core.run Sys2Proof.core k s = .next u ∧ Host.Core.run Sys2Proof.core k t = .next v ∧ Lockstep u v ∧
      (u.fsm = .idle → u.pixcount = 1024) := by
  induction k generalizing s t p with
  | zero => exact ⟨s, t, rfl, rfl, h, fun hf => absurd hf (FsmState.ne_of_decoding hs.decoding).1⟩
  | succ k ih =>
    have hmove := engineStep_eq_decodeMove hs.decoding hs.rangeOk
    rw [run_succ h.noEvents.1 hmove, run_succ h.noEvents.2 (h.engineStep_eq hs.decoding)]
    rcases engineStep_decoding hs hp with ⟨-, hfull, hfin⟩ | ⟨u, q, _, hu, hds⟩
    · have hm : (decodeMove s).apply s = finish .ok s := Host.Outcome.next.inj (hmove.symm.trans hfin)
      have hl := h.apply (m := decodeMove s) hs.positioned (by
        rw [hm]
        exact ⟨hs.positioned.position, hs.positioned.fullOrigin⟩)
      rw [hm] at hl ⊢
      refine ⟨_, _, run_idle rfl hl.noEvents.1 k, run_idle ?_ hl.noEvents.2 k, hl, fun _ => ?_⟩
      · rw [hl.same]
        rfl
      · exact BitVec.eq_of_toNat_eq (hp.1.symm.trans hfull)
    · have hm : (decodeMove s).apply s = u := Host.Outcome.next.inj (hmove.symm.trans hu)
      subst hm
      exact ih (h.apply hs.positioned hds.ok.positioned) hds.ok hds.holds

/-- Decodes of the same bytes start in lockstep (R98). -/
theorem lockstep_startDecode (hlen : s.blkLen = t.blkLen) (hbytes : ∀ k, k < s.blkLen.toNat → blockByte s k = blockByte t k)
    (hr : RangeOk t) (hs : s.events = []) (ht : t.events = []) : Lockstep (startDecode s) (startDecode t) := by
  refine ⟨?_, hbytes, fun j hj => absurd hj (Nat.not_lt_zero j), hr, hs, ht⟩
  simp only [withDecoder, startDecode, hlen]

end LockstepRuns

/-- Settles O58: both EXEC steps start a decode, the two start in lockstep, and decodes in lockstep run so. -/
theorem decodeDependsOnBlockOnly : Obligations.DecodeDependsOnBlockOnly := by
  intro s t s' t' hsf htf hse hte hs ht hsu htu hrs hrt hlen hbytes k
  have hfits {x x' : State} (hx : engineStep x = .next x') (hr : RangeOk x') : x.archiveLen.toNat ≤ x.amemSize.toNat := by
    obtain ⟨-, -, harchive, -, -, hsize, -⟩ := engineFrame x x' hx
    rw [← harchive, ← hsize]
    exact hr.1
  obtain ⟨a, rfl, ha, hae⟩ := exec_starts_decode hsf (fun _ => hfits hs hrs) hs hsu
  obtain ⟨b, rfl, hb, hbe⟩ := exec_starts_decode htf (fun _ => hfits ht hrt) ht htu
  obtain ⟨hok, hgrid, -⟩ := startDecode_ok ha
  obtain ⟨u, v, hu, hv, hl, hend⟩ :=
    (lockstep_startDecode hlen hbytes hb (hae.trans hse) (hbe.trans hte)).run k hok hgrid
  rw [run_succ hse hs, run_succ hte ht]
  refine ⟨u, v, hu, hv, ?_⟩
  have hwords := hl.words
  rw [hl.same] at hwords ⊢
  exact ⟨rfl, rfl, rfl, rfl, rfl, rfl, hwords, hend⟩

end Sys2Proof.Machine

/-! The statements of 44_grid_writer.md: the packing of a pixel word, how the position walks the grid, and which GRID word
an engine step writes with which value. -/

namespace Sys2Proof.Machine

section PixelWords

variable (r g b a : Byte)

/-- The four channels fit a word, so their sum is the word's value (R107). -/
theorem px_toNat : (px r g b a).toNat = r.toNat + 256 * g.toNat + 65536 * b.toNat + 16777216 * a.toNat := by
  have hr := r.isLt
  have hg := g.isLt
  have hb := b.isLt
  have ha := a.isLt
  rw [px, BitVec.toNat_ofNat, Nat.mod_eq_of_lt (by omega)]

/-- A pixel word is the little-endian value of its channels in the order R, G, B, A (R107). -/
theorem px_toNat_eq_leNat : (px r g b a).toNat = leNat [r, g, b, a] := by
  rw [px_toNat]
  simp only [leNat]
  omega

/-- A byte of a pixel word is a channel if it is that channel's digit of the word's value. -/
theorem px_extractLsb' {i : Nat} {c : Byte} (h : (px r g b a).toNat / 2 ^ i % 2 ^ 8 = c.toNat) :
    (px r g b a).extractLsb' i 8 = c := by
  apply BitVec.eq_of_toNat_eq
  rw [BitVec.extractLsb'_toNat, Nat.shiftRight_eq_div_pow, h]

end PixelWords

/-- Settles O39: `px_toNat`, whose base-256 digits are the channels. -/
theorem pixelWordPacksChannels : Obligations.PixelWordPacksChannels := by
  intro r g b a
  have hr := r.isLt
  have hg := g.isLt
  have hb := b.isLt
  have ha := a.isLt
  have hpx := px_toNat r g b a
  have hbytes : leBytes 4 (px r g b a).toNat = [r, g, b, a] := by
    rw [px_toNat_eq_leNat]
    exact leBytes_leNat [r, g, b, a]
  refine ⟨hpx, px_extractLsb' r g b a ?_, px_extractLsb' r g b a ?_, px_extractLsb' r g b a ?_, px_extractLsb' r g b a ?_,
    hbytes⟩ <;> omega

section PadSteps

variable {s : State}

/-- PAD below the budget (R113). -/
theorem engineStep_pad_writes (hf : s.fsm = .pad) (hlt : s.pixcount.toNat < Config.gridPixels) :
    engineStep s = .next (writePixel transparent s) := by
  rw [engineStep, hf]
  exact if_pos hlt

/-- PAD at the budget (R113). -/
theorem engineStep_pad_finishes (hf : s.fsm = .pad) (hge : Config.gridPixels ≤ s.pixcount.toNat) :
    engineStep s = .next (finish .ok s) := by
  rw [engineStep, hf]
  exact if_neg (Nat.not_lt.2 hge)

/-- The transparent pixel is the word 0 (R108). -/
theorem transparent_eq_zero : transparent = 0 := rfl

end PadSteps

/-- Settles O38: the two sides of PAD's test. -/
theorem padStepPadsOrFinishes : Obligations.PadStepPadsOrFinishes := by
  refine fun s hf => ⟨fun hlt => ?_, engineStep_pad_finishes hf⟩
  have hstep := engineStep_pad_writes hf hlt
  rw [transparent_eq_zero] at hstep
  exact ⟨_, hstep, gridWord_writePixel 0 s, rfl, rfl, rfl, rfl, rfl⟩

section PositionWalk

variable {s : State}

/-- Inside a row the position moves one column on (R111). -/
theorem advance_of_col_ne (hc : s.col ≠ 31) :
    (advance s).col = s.col + 1 ∧ (advance s).row = s.row ∧ (advance s).full = s.full := by
  have hcol : s.col.toNat ≠ 31 := fun h => hc (BitVec.eq_of_toNat_eq h)
  exact ⟨if_neg hcol, if_neg hcol, if_neg fun ⟨h, _⟩ => hcol h⟩

/-- At the end of a row that is not the last the position moves to the start of the next (R111). -/
theorem advance_of_row_ne (hc : s.col = 31) (hr : s.row ≠ 31) :
    (advance s).col = 0 ∧ (advance s).row = s.row + 1 ∧ (advance s).full = s.full := by
  have hcol : s.col.toNat = 31 := congrArg BitVec.toNat hc
  have hrow : s.row.toNat ≠ 31 := fun h => hr (BitVec.eq_of_toNat_eq h)
  exact ⟨if_pos hcol, (if_pos hcol).trans (if_neg hrow), if_neg fun ⟨_, h⟩ => hrow h⟩

/-- After the last pixel the position is the origin and the writer is full (R111). -/
theorem advance_of_last (hc : s.col = 31) (hr : s.row = 31) :
    (advance s).col = 0 ∧ (advance s).row = 0 ∧ (advance s).full = true := by
  have hcol : s.col.toNat = 31 := congrArg BitVec.toNat hc
  have hrow : s.row.toNat = 31 := congrArg BitVec.toNat hr
  exact ⟨if_pos hcol, (if_pos hcol).trans (if_pos hrow), if_pos ⟨hcol, hrow⟩⟩

/-- An advance below the budget keeps the position in order; it is the part of `write_pixel` that moves it (R110, R111). -/
theorem positioned_advance (h : Positioned s) (hlt : s.pixcount.toNat < Config.gridPixels) :
    Positioned (advance s) ∧ (advance s).pixcount.toNat = s.pixcount.toNat + 1 := by
  obtain ⟨⟨hpos, hfull⟩, hpix⟩ := h.writePixel hlt transparent
  exact ⟨⟨hpos, hfull⟩, hpix⟩

/-- The position after `n` pixels of a decode is in order, and `n` pixels are counted (R111). -/
theorem positioned_iterate_advance (s : State) (n : Nat) (hn : n ≤ Config.gridPixels) :
    Positioned (advance^[n] (startDecode s)) ∧ (advance^[n] (startDecode s)).pixcount.toNat = n := by
  induction n with
  | zero => exact ⟨⟨rfl, nofun⟩, rfl⟩
  | succ n ih =>
    obtain ⟨hpos, hpix⟩ := ih (Nat.le_of_succ_le hn)
    obtain ⟨hpos', hpix'⟩ := positioned_advance hpos (hpix.trans_lt hn)
    rw [Function.iterate_succ_apply']
    exact ⟨hpos', by rw [hpix', hpix]⟩

/-- The writer is full exactly when the whole budget is written (R31). -/
theorem Positioned.full_iff (h : Positioned s) : s.full = true ↔ s.pixcount.toNat = Config.gridPixels :=
  ⟨fun hf => congrArg BitVec.toNat (h.pixcount_of_full hf), h.full_of_pixcount⟩

/-- Below the budget ROW and COL are the quotient and the remainder of PIXCOUNT by the row's length (R31). -/
theorem Positioned.row_col (h : Positioned s) (hlt : s.pixcount.toNat < Config.gridPixels) :
    s.row.toNat = s.pixcount.toNat / 32 ∧ s.col.toNat = s.pixcount.toNat % 32 := by
  obtain ⟨-, hidx⟩ := h.index hlt
  have hc := s.col.isLt
  rw [gridIndex] at hidx
  omega

end PositionWalk

/-- Settles O40: the three cases of an advance; then `n` advances keep the position in order. -/
theorem advanceWalksRowMajor : Obligations.AdvanceWalksRowMajor := by
  refine ⟨fun s => ⟨advance s, rfl, rfl, advance_of_col_ne, advance_of_row_ne, advance_of_last, rfl⟩, fun s n hn => ?_⟩
  obtain ⟨hpos, hpix⟩ := positioned_iterate_advance s n hn
  have hfull := hpos.full_iff
  have hrowcol := hpos.row_col
  rw [hpix] at hfull hrowcol
  exact ⟨hpix, hfull, hrowcol⟩

section GridWrites

variable {s t : State}

/-- What the engine's turn leaves in GRID: the words before, or one transparent or opaque pixel more (R108, R109). -/
theorem engineStep_grid (h : engineStep s = .next t) :
    t.grid = s.grid ∨ t.grid = (writePixel transparent s).grid ∨
      ∃ r g b : Byte, t.grid = (writePixel (px r g b 255) s).grid := by
  obtain ⟨-, -, -, -, -, -, -, -, -, -, -, -, -, hwriter, -⟩ := engineFrame s t h
  by_cases hg : t.grid = s.grid
  · exact .inl hg
  rcases hwriter hg with hf | hf | hf <;> rw [engineStep, hf] at h
  · rcases emitTStep_next h with rfl | rfl | rfl
    · exact .inl rfl
    · exact .inl rfl
    · exact .inr (.inl rfl)
  · rcases emitCStep_next h with rfl | rfl | rfl | ⟨r, g, b, rfl⟩
    · exact .inl rfl
    · exact .inl rfl
    · exact .inl rfl
    · exact .inr (.inr ⟨r, g, b, rfl⟩)
  · rcases padStep_next h with rfl | rfl
    · exact .inr (.inl rfl)
    · exact .inl rfl

/-- With the GRID that one pixel leaves, a word is as before or is that pixel (R110). -/
theorem gridWord_eq_or_of_writePixel {v : Word} (hg : t.grid = (writePixel v s).grid) (k : Nat) :
    gridWord t k = gridWord s k ∨ gridWord t k = some v := by
  have hword : gridWord t k = if k = gridIndex s then some v else gridWord s k := by
    rw [← gridWord_writePixel, gridWord, gridWord, hg]
  rw [hword]
  split
  · exact .inr rfl
  · exact .inl rfl

end GridWrites

/-- Settles O41: each pixel the engine writes is transparent or opaque, and every other word stays. -/
theorem engineWritesTwoPixelKinds : Obligations.EngineWritesTwoPixelKinds := by
  intro s t h k
  rcases engineStep_grid h with hg | hg | ⟨r, g, b, hg⟩
  · exact .inl (congrArg (sparseGet · k) hg)
  · exact (gridWord_eq_or_of_writePixel hg k).imp_right .inl
  · rw [px_opaque] at hg
    exact (gridWord_eq_or_of_writePixel hg k).imp_right fun hk => .inr ⟨r, g, b, hk⟩

/-- Settles O42: a decode that goes on makes a `GridStep`; the finish writes nothing. -/
theorem gridWrittenOnceInOrder : Obligations.GridWrittenOnceInOrder := by
  intro s t hinv hd h
  obtain ⟨p, hgrid, -, -⟩ := hinv.output hd
  rcases engineStep_decoding (hinv.decodeOk hd) hgrid with ⟨-, -, hfin⟩ | ⟨u, q, k, hu, hds⟩
  · cases hfin.symm.trans h
    exact .inl ⟨rfl, rfl⟩
  · cases hu.symm.trans h
    refine hds.gridStep.imp_right fun ⟨hlt, hpix, v, hg⟩ => ⟨hlt, hpix, ⟨v, ?_⟩, fun k hk => ?_⟩
    · rw [gridWord, hg, sparseGet_sparseSet_self]
    · rw [gridWord, hg]
      exact sparseGet_sparseSet_ne s.grid s.pixcount.toNat k v hk

end Sys2Proof.Machine

/-! The statements of 60_exceptions.md: what clears HOST_VIOL, what the EXEC step that detects an error changes, and the interrupt
output. -/

namespace Sys2Proof.Machine

section HostViolation

variable {s t : State}

/-- An answered host write of the window is an aligned word write, of the register at its offset (R70). -/
theorem hostWrite_next {off : BitVec 13} {size : AccessSize} {w : Word} (h : hostWrite off size w s = .next t) :
    AlignedWord off size ∧ writeReg (windowReg off) w s = .next t := by
  unfold hostWrite at h
  split at h
  next hword => exact ⟨hword, h⟩
  next => cases h

/-- STATUS stands at offset 0x008 alone (R17). -/
theorem offset_eq_of_windowReg_status {off : BitVec 13} (ha : off.toNat % 4 = 0) (hr : windowReg off = .status) :
    off = 0x008 := by
  unfold windowReg at hr
  split at hr
  case h_3 hdiv =>
    have hoff : off.toNat = 8 := by omega
    exact BitVec.eq_of_toNat_eq hoff
  case h_15 => split at hr <;> cases hr
  all_goals cases hr

/-- A CMD write does not clear HOST_VIOL (R74). -/
theorem writeCmd_hostViol {w : Word} (hv : s.hostViol = true) (h : writeCmd w s = .next t) : t.hostViol = true := by
  rcases Bool.eq_false_or_eq_true s.busy with hb | hb
  · cases (writeCmd_busy hb).symm.trans h
    rfl
  · by_cases ho : opField w = 0
    · cases (writeCmd_nop hb ho).symm.trans h
      exact hv
    · cases (writeCmd_accept hb ho).symm.trans h
      exact hv

/-- A window write that clears HOST_VIOL is a STATUS write with bit 3 set (R72, R119). -/
theorem writeReg_clears_hostViol {r : WindowReg} {w : Word} (hv : s.hostViol = true) (hc : t.hostViol = false)
    (h : writeReg r w s = .next t) : r = .status ∧ w.getLsbD 3 = true := by
  have hkept (hv' : t.hostViol = true) : r = .status ∧ w.getLsbD 3 = true := absurd hv' (ne_true_of_eq_false hc)
  cases r with
  | status =>
    cases h
    exact ⟨rfl, by simpa [writeStatus, hv] using hc⟩
  | cmd => exact hkept (writeCmd_hostViol hv h)
  | archiveLen | spriteId | blkStart | blkLen =>
    rw [writeReg] at h
    split at h <;> cases h
    · exact hkept rfl
    · exact hkept hv
  | ctrl | signature | spriteCount | cursor | run | pixcount | rowcol | fsm | reserved | grid k =>
    cases h
    exact hkept hv

/-- The engine's turn leaves HOST_VIOL (R38). -/
theorem engineStep_hostViol (h : engineStep s = .next t) : t.hostViol = s.hostViol := by
  obtain ⟨-, hviol, -⟩ := engineFrame s t h
  exact hviol

/-- A WAIT leaves HOST_VIOL: it is an engine turn or a read of STATUS (R69). -/
theorem hostWait_hostViol (h : hostWait s = .next t) : t.hostViol = s.hostViol := by
  rcases Bool.eq_false_or_eq_true s.busy with hb | hb
  · exact engineStep_hostViol (s := reschedule .wait s) ((hostWait_busy hb).symm.trans h)
  · cases (hostWait_not_busy hb).symm.trans h
    rfl

/-- An event that clears HOST_VIOL is a STATUS write with bit 3 set, or reset (R119). -/
theorem runEvent_clears_hostViol {e : Event} (hv : s.hostViol = true) (hc : t.hostViol = false)
    (h : runEvent e s = .next t) : (∃ w : Word, w.getLsbD 3 = true ∧ e = .write 0x008 .word w) ∨ e = .reset := by
  have hchanged : t.hostViol ≠ s.hostViol := by rw [hv, hc]; exact Bool.false_ne_true
  cases e with
  | engine => exact absurd (engineStep_hostViol h) hchanged
  | read off size =>
    obtain ⟨x, rfl⟩ := hostRead_next h
    exact absurd rfl hchanged
  | write off size w =>
    obtain ⟨⟨rfl, ha⟩, hwrite⟩ := hostWrite_next h
    obtain ⟨hstatus, hbit⟩ := writeReg_clears_hostViol hv hc hwrite
    exact .inl ⟨w, hbit, by rw [offset_eq_of_windowReg_status ha hstatus]⟩
  | amemRead a =>
    obtain ⟨x, rfl⟩ := hostAmemRead_next h
    exact absurd rfl hchanged
  | amemWrite a b =>
    cases hostAmemWrite_next h
    exact absurd rfl hchanged
  | wait => exact absurd (hostWait_hostViol h) hchanged
  | reset => exact .inr rfl

end HostViolation

/-- Settles O13: the engine's turn leaves HOST_VIOL, and `runEvent_clears_hostViol` names the events that clear it. -/
theorem hostViolIsSticky : Obligations.HostViolIsSticky := by
  intro s t hstep hv hc
  cases hev : s.events with
  | nil =>
    have hkept := engineStep_hostViol ((step_of_events_nil hev).symm.trans hstep)
    exact absurd (hkept.trans hv) (ne_true_of_eq_false hc)
  | cons e es =>
    have hrun := (step_of_events_cons hev).symm.trans hstep
    obtain ⟨w, hbit, rfl⟩ | rfl := runEvent_clears_hostViol (s := { s with events := es }) hv hc hrun
    · exact ⟨es, .inl ⟨w, hbit, rfl⟩⟩
    · exact ⟨es, .inr rfl⟩

section PreciseErrors

variable {s t : State}

/-- The two ways the EXEC step ends with an error: LOAD discards the archive, and any other command only finishes, with a new reason
if the error is NOTFOUND (R76, R81, R88, R121). -/
theorem exec_fails (hok : s.err = .ok) (hop : s.op.toNat ≠ 0) (h : exec (decodeOp s.op) s = .next t) (herr : t.err ≠ .ok) :
    (s.op.toNat = 1 ∧ ∃ e sig, t = loadFail e (latchSignature sig s)) ∨
      (s.op.toNat ≠ 1 ∧ ∃ e k, t = finish e (setReason k s) ∧ (k ≠ s.nfReason → e = .notFound)) := by
  rcases exec_decodeOp_next hop h with ⟨ho, hload⟩ | ⟨-, rfl⟩ | ⟨ho, -, rfl⟩ | ⟨ho, -, k, -, rfl⟩ | ⟨-, -, a, n, -, rfl⟩ |
    ⟨-, -, rfl⟩ | ⟨ho, -, rfl⟩ | ⟨-, -, a, n, -, rfl⟩ | ⟨ho, rfl⟩
  · rcases execLoad_next hload with ⟨e, sig, -, rfl⟩ | ⟨sig, n, -, -, -, -, rfl⟩
    · exact .inl ⟨ho, e, sig, rfl⟩
    · exact absurd rfl herr
  · exact absurd rfl herr
  · exact .inr ⟨by omega, .notLoaded, s.nfReason, rfl, absurd rfl⟩
  · exact .inr ⟨by omega, .notFound, k, rfl, fun _ => rfl⟩
  · exact absurd rfl herr
  · exact absurd hok herr
  · exact .inr ⟨by omega, .badRange, s.nfReason, rfl, absurd rfl⟩
  · exact absurd hok herr
  · exact .inr ⟨by omega, .badCmd, s.nfReason, rfl, absurd rfl⟩

end PreciseErrors

/-- Settles O48: what a failed LOAD and any other failed command write out, by `exec_fails`. -/
theorem errorsArePrecise : Obligations.ErrorsArePrecise := by
  intro s t hok hop h herr
  have hload : s.op = 1 ↔ s.op.toNat = 1 := BitVec.toNat_inj.symm
  rcases exec_fails hok hop h herr with ⟨ho, e, sig, rfl⟩ | ⟨ho, e, k, rfl, hreason⟩
  · exact ⟨rfl, absurd rfl, fun hne => absurd (hload.2 ho) hne, fun _ => ⟨rfl, rfl, rfl⟩⟩
  · exact ⟨rfl, hreason, fun _ => ⟨rfl, rfl, rfl⟩, fun heq => absurd (hload.1 heq) ho⟩

section Interrupt

variable {s : State}

/-- IRQ is IRQ_EN and DONE (R124). -/
theorem irq_eq_true_iff : irq s = true ↔ s.irqEn = true ∧ s.done = true := Bool.and_eq_true_iff

/-- With IRQ_EN = 0 the interrupt is masked (R124). -/
theorem irq_of_irqEn_eq_false (h : s.irqEn = false) : irq s = false := by
  rw [irq, h, Bool.false_and]

/-- With DONE = 0 no interrupt is pending (R124). -/
theorem irq_of_done_eq_false (h : s.done = false) : irq s = false := by
  rw [irq, h, Bool.and_false]

/-- A STATUS write with bit 1 set clears DONE (R72). -/
theorem writeStatus_done {w : Word} (hbit : w.getLsbD 1 = true) : (writeStatus w s).done = false := by
  simp [writeStatus, hbit]

end Interrupt

/-- Settles O18: the CTRL write masks by IRQ_EN; the STATUS write and the acceptance clear DONE. -/
theorem interruptFollowsDone : Obligations.InterruptFollowsDone := fun _ =>
  ⟨irq_eq_true_iff,
    fun _ hbit => ⟨_, hostWrite_word rfl, irq_of_irqEn_eq_false hbit, rfl⟩,
    fun _ hbit => ⟨_, hostWrite_word rfl, irq_of_done_eq_false (writeStatus_done hbit), rfl⟩,
    fun w hb ho => ⟨accept (opField w) _, (hostWrite_word rfl).trans (writeCmd_accept hb ho), irq_of_done_eq_false rfl, rfl⟩⟩

end Sys2Proof.Machine

/-! The statement of 70_reset_and_hazards.md: what the reset input leaves, and that the end of a decode gives every GRID word a
value. -/

namespace Sys2Proof.Machine

section ResetReads

variable {off : BitVec 13}

/-- No GRID word stands below offset 0x1000 (R17). -/
theorem windowReg_ne_grid (hlt : off.toNat < 0x1000) (k : Nat) : windowReg off ≠ .grid k := by
  unfold windowReg
  split
  case h_15 => rw [if_pos (by omega)]; exact WindowReg.noConfusion
  all_goals exact WindowReg.noConfusion

variable (s : State)

/-- After reset no GRID word has a value (R132). -/
theorem gridWord_resetInput (k : Nat) : gridWord (resetInput s) k = none := rfl

/-- After reset every register of the window reads 0; only a GRID word does not (R131). -/
theorem readReg_resetInput {r : WindowReg} (hr : ∀ k, r ≠ .grid k) : readReg r (resetInput s) = some 0 := by
  cases r with
  | grid k => exact absurd rfl (hr k)
  | cmd | ctrl | status | archiveLen | signature | spriteCount | spriteId | blkStart | blkLen | cursor | run | pixcount | rowcol
  | fsm | reserved => rfl

/-- After reset a host read of a GRID word is a fault (R132). -/
theorem hostRead_grid_resetInput (ha : off.toNat % 4 = 0) (hge : 0x1000 ≤ off.toNat) :
    hostRead off .word (resetInput s) = .fault .gridUnwritten := by
  have hlt := off.isLt
  obtain ⟨-, hfault⟩ := gridWindowReads (resetInput s) off ((off.toNat - 0x1000) / 4) (by omega) (by omega)
  exact hfault (gridWord_resetInput s _)

end ResetReads

/-- With reset next on the schedule the step is the reset input, the later events left (R51, R131). -/
theorem step_reset (s : State) (es : List Event) :
    step { s with events := .reset :: es } = .next (resetInput { s with events := es }) := rfl

/-- The step that ends a decode has ERR = OK and leaves every GRID word with a value: the reference's pixel (R103, R132). -/
theorem engineStep_finish_writes_grid {s t : State} (h : Inv s) (hd : s.fsm.decoding = true) (hstep : engineStep s = .next t)
    (hidle : t.fsm = .idle) : t.err = .ok ∧ ∀ k, k < 1024 → ∃ w, gridWord t k = some w := by
  obtain ⟨hfin, hlen, hgrid, -⟩ := decodeFinishHoldsReference s t h hd hstep hidle
  exact ⟨by rw [hfin], fun k hk => ⟨_, (hgrid k hk).trans (List.getElem?_eq_getElem (hlen ▸ hk))⟩⟩

/-- Settles O19: reset leaves a state whose registers read 0 and whose GRID words fault; the end of a decode is `finish`. -/
theorem resetInputClears : Obligations.ResetInputClears :=
  ⟨fun s es => ⟨_, step_reset s es, rfl, rfl, rfl, rfl, rfl, rfl, rfl, rfl, rfl,
      fun _ ha hlt => hostRead_word ha (readReg_resetInput _ (windowReg_ne_grid hlt)), gridWord_resetInput _,
      fun _ => hostRead_grid_resetInput _⟩,
    fun _ _ => engineStep_finish_writes_grid⟩

end Sys2Proof.Machine
